-- ==== Sys2Proof/Word.lean ====
section
/-! DEFINITION. The word types of the block (00_scope.md R5, R6): command words, samples, PCM16 elements, and the wide
format, all as bit patterns. -/

namespace Sys2Proof

/-- A command word and a control register: 32 bits (R5, WORD). -/
abbrev Word := BitVec 32

/-- The bit pattern of an IEEE 754 binary32 value, the storage format of a Sample (R5, R83). -/
abbrev F32 := BitVec 32

/-- The bit pattern of an IEEE 754 binary64 value, the WIDE format (R5, R84), and a 64-bit container of the slot
register file (10_state.md R22). -/
abbrev F64 := BitVec 64

/-- A PCM16 sample: 16 bits, two's complement (R5, R80). -/
abbrev Pcm16 := BitVec 16

end Sys2Proof
end

