-- ==== Sys2Proof/Syntax.lean ====
section
/-! DEFINITION. The instructions of DEQ-CS 1.0: one constructor per row of the opcode map (30_encoding.md R66), with the
operands of R61 and R64. -/

namespace Sys2Proof

/-- The CH bit of a command: the channel it names (R61). Channel 0 is the document's channelA, channel 1 its channelB. -/
inductive Channel where
  | ch0
  | ch1
  deriving DecidableEq, Repr

/-- The channel a command for `c` never touches (10_state.md R22). -/
def Channel.other : Channel → Channel
  | .ch0 => .ch1
  | .ch1 => .ch0

/-- CURVE, bits 23:20 of CFG.VOL (R61): Linear is 0; 1 to 15 are reserved, but they decode (R67). -/
inductive Curve where
  | linear
  | reserved (code : Nat)
  deriving DecidableEq, Repr

/-- PKIND, bits 19:16 of CFG.BQ.* (R61): which kind of parameter PARAM is; 3 to 15 are reserved, but they decode (R67). -/
inductive ParamKind where
  | q
  | bandwidth
  | slope
  | reserved (code : Nat)
  deriving DecidableEq, Repr

/-- The four f64 operands of CFG.BQ.* in the order of words 1 to 8 (R64). -/
structure BiquadOperands where
  rate : F64
  f0 : F64
  gainDb : F64
  param : F64
  deriving DecidableEq, Repr

/-- One constructor per row of spec/opcode_table.json. -/
inductive Instr where
  | nop
  | clrst
  | srst
  | decode
  | encode
  | split
  | merge
  | chClear (c : Channel)
  | chAct (c : Channel)
  | apply (c : Channel)
  | cfgDlyt (c : Channel) (taps : Word)
  | cfgDlym (c : Channel) (delayMs : Word) (sampleRate : Word)
  | cfgVol (c : Channel) (curve : Curve) (gain : F32)
  | cfgBqLp (c : Channel) (pkind : ParamKind) (ops : BiquadOperands)
  | cfgBqHp (c : Channel) (pkind : ParamKind) (ops : BiquadOperands)
  | cfgBqBp (c : Channel) (pkind : ParamKind) (ops : BiquadOperands)
  | cfgBqNotch (c : Channel) (pkind : ParamKind) (ops : BiquadOperands)
  | cfgBqApk (c : Channel) (pkind : ParamKind) (ops : BiquadOperands)
  | cfgBqPeq (c : Channel) (pkind : ParamKind) (ops : BiquadOperands)
  | cfgBqLs (c : Channel) (pkind : ParamKind) (ops : BiquadOperands)
  | cfgBqHs (c : Channel) (pkind : ParamKind) (ops : BiquadOperands)
  deriving DecidableEq, Repr

/-- The pseudo-instruction CYCLE: six packets, no encoding and no atomicity of its own (R70). -/
def cycle : List Instr :=
  [.decode, .split, .apply .ch0, .apply .ch1, .merge, .encode]

end Sys2Proof
end

