-- ==== Sys2Proof/WellFormed.lean ====
section
/-! DEFINITION. Which terms of `Instr` stand for a packet. The bit fields CH and the operand words are whole by their
types; what is left to check is that a reserved CURVE or PKIND is one of the reserved values of its 4-bit field
(30_encoding.md R61, R69). -/

namespace Sys2Proof

/-- A reserved CURVE is 1 to 15 (R61). -/
def Curve.wellFormed : Curve → Bool
  | .linear => true
  | .reserved n => decide (1 ≤ n ∧ n ≤ 15)

/-- A reserved PKIND is 3 to 15 (R61). -/
def ParamKind.wellFormed : ParamKind → Bool
  | .q => true
  | .bandwidth => true
  | .slope => true
  | .reserved n => decide (3 ≤ n ∧ n ≤ 15)

/-- The instruction is one that some packet carries. -/
def Instr.wellFormed : Instr → Bool
  | .nop => true
  | .clrst => true
  | .srst => true
  | .decode => true
  | .encode => true
  | .split => true
  | .merge => true
  | .chClear _ => true
  | .chAct _ => true
  | .apply _ => true
  | .cfgDlyt _ _ => true
  | .cfgDlym _ _ _ => true
  | .cfgVol _ curve _ => curve.wellFormed
  | .cfgBqLp _ pkind _ => pkind.wellFormed
  | .cfgBqHp _ pkind _ => pkind.wellFormed
  | .cfgBqBp _ pkind _ => pkind.wellFormed
  | .cfgBqNotch _ pkind _ => pkind.wellFormed
  | .cfgBqApk _ pkind _ => pkind.wellFormed
  | .cfgBqPeq _ pkind _ => pkind.wellFormed
  | .cfgBqLs _ pkind _ => pkind.wellFormed
  | .cfgBqHs _ pkind _ => pkind.wellFormed

end Sys2Proof
end

