-- ==== Sys2Proof/Decode.lean ====
section
/-! DEFINITION. The command encoding of 30_encoding.md: the decoder, total on any list of words, and the encoder. A packet
is a list of 32-bit words, word 0 first (R60). -/

namespace Sys2Proof

/-! ## The fields of the command word (R61) -/

/-- OPC, bits 31:24. -/
def opcOf (w : Word) : BitVec 8 := w.extractLsb' 24 8

/-- SUB, bits 23:20: TYPE in CFG.BQ.*, CURVE in CFG.VOL, zero elsewhere. -/
def subOf (w : Word) : BitVec 4 := w.extractLsb' 20 4

/-- PK, bits 19:16: PKIND in CFG.BQ.*, zero elsewhere. -/
def pkOf (w : Word) : BitVec 4 := w.extractLsb' 16 4

/-- Bits 15:1, zero in every command. -/
def zeroOf (w : Word) : BitVec 15 := w.extractLsb' 1 15

/-- CH, bit 0. -/
def chOf (w : Word) : BitVec 1 := w.extractLsb' 0 1

/-- A command word from its fields. -/
def mkWord0 (opc : BitVec 8) (sub pk : BitVec 4) (ch : BitVec 1) : Word :=
  opc ++ sub ++ pk ++ 0#15 ++ ch

/-- The number of words of a packet is a function of OPC alone (R63). -/
def packetWords (opc : BitVec 8) : Nat :=
  match opc.toNat with
  | 0x30 => 2
  | 0x31 => 3
  | 0x32 => 2
  | 0x40 => 9
  | _ => 1

/-- CH = 0 or 1 (R61). -/
def channelOfBit (b : BitVec 1) : Channel := if b = 0#1 then .ch0 else .ch1

/-- The CH bit of a channel (R61). -/
def bitOfChannel : Channel → BitVec 1
  | .ch0 => 0#1
  | .ch1 => 1#1

/-- CURVE values (R61). -/
def curveOfBits (b : BitVec 4) : Curve := if b = 0#4 then .linear else .reserved b.toNat

/-- The 4-bit field of a CURVE (R61). -/
def curveCode : Curve → BitVec 4
  | .linear => 0#4
  | .reserved n => BitVec.ofNat 4 n

/-- PKIND values (R61). -/
def paramKindOfBits (b : BitVec 4) : ParamKind :=
  match b.toNat with
  | 0 => .q
  | 1 => .bandwidth
  | 2 => .slope
  | n => .reserved n

/-- The 4-bit field of a PKIND (R61). -/
def paramKindCode : ParamKind → BitVec 4
  | .q => 0#4
  | .bandwidth => 1#4
  | .slope => 2#4
  | .reserved n => BitVec.ofNat 4 n

/-! ## 64-bit operands (R65) -/

/-- {high word, low word}: the less significant half is sent first. -/
def operand64 (lo hi : Word) : F64 := hi ++ lo

/-- The word sent first. -/
def loWord (v : F64) : Word := v.extractLsb' 0 32

/-- The word sent second. -/
def hiWord (v : F64) : Word := v.extractLsb' 32 32

/-- Words 1 to 8 of a CFG.BQ.* packet: RATE, F0, GAIN_DB, PARAM (R64). -/
def biquadOperandWords (ops : BiquadOperands) : List Word :=
  [loWord ops.rate, hiWord ops.rate, loWord ops.f0, hiWord ops.f0,
   loWord ops.gainDb, hiWord ops.gainDb, loWord ops.param, hiWord ops.param]

/-! ## The decoder -/

/-- Why a packet is no instruction (R67). The block reports all of them alike, as IllegalCommand (R215). -/
inductive Reject where
  /-- no word at all: the command port cannot be handed such a packet (R60) -/
  | emptyPacket
  /-- the number of words is not the one of OPC (R63) -/
  | wrongLength
  /-- a must-be-zero bit is 1 (R61) -/
  | reservedBit
  /-- TYPE 8 to 15 under OPC 0x40 (R61) -/
  | reservedType
  /-- no row has this OPC (R66) -/
  | unassignedOpcode
  deriving DecidableEq, Repr

/-- Format Z: every field but OPC is zero (R62). -/
def decodeZ (w : Word) (i : Instr) : Except Reject Instr :=
  if subOf w = 0#4 ∧ pkOf w = 0#4 ∧ chOf w = 0#1 then .ok i else .error .reservedBit

/-- Formats C, T and M: SUB and PK are zero, CH names a channel (R62). -/
def decodeC (w : Word) (i : Channel → Instr) : Except Reject Instr :=
  if subOf w = 0#4 ∧ pkOf w = 0#4 then .ok (i (channelOfBit (chOf w))) else .error .reservedBit

/-- Format G: PK is zero, SUB is CURVE (R62). -/
def decodeG (w : Word) (gain : F32) : Except Reject Instr :=
  if pkOf w = 0#4 then .ok (.cfgVol (channelOfBit (chOf w)) (curveOfBits (subOf w)) gain)
  else .error .reservedBit

/-- Format B: SUB is TYPE, which selects the instruction, and PK is PKIND (R62, R66). -/
def decodeB (w : Word) (ops : BiquadOperands) : Except Reject Instr :=
  let c := channelOfBit (chOf w)
  let pkind := paramKindOfBits (pkOf w)
  match (subOf w).toNat with
  | 0 => .ok (.cfgBqLp c pkind ops)
  | 1 => .ok (.cfgBqHp c pkind ops)
  | 2 => .ok (.cfgBqBp c pkind ops)
  | 3 => .ok (.cfgBqNotch c pkind ops)
  | 4 => .ok (.cfgBqApk c pkind ops)
  | 5 => .ok (.cfgBqPeq c pkind ops)
  | 6 => .ok (.cfgBqLs c pkind ops)
  | 7 => .ok (.cfgBqHs c pkind ops)
  | _ => .error .reservedType

/-- The packet whose length fits its OPC and whose bits 15:1 are zero, by OPC (R66). -/
def decodeByOpcode (w : Word) (operands : List Word) : Except Reject Instr :=
  match (opcOf w).toNat with
  | 0x00 => decodeZ w .nop
  | 0x01 => decodeZ w .clrst
  | 0x02 => decodeZ w .srst
  | 0x10 => decodeZ w .decode
  | 0x11 => decodeZ w .encode
  | 0x12 => decodeZ w .split
  | 0x13 => decodeZ w .merge
  | 0x20 => decodeC w .chClear
  | 0x21 => decodeC w .chAct
  | 0x22 => decodeC w .apply
  | 0x30 =>
    match operands with
    | [taps] => decodeC w (fun c => .cfgDlyt c taps)
    | _ => .error .wrongLength
  | 0x31 =>
    match operands with
    | [delayMs, sampleRate] => decodeC w (fun c => .cfgDlym c delayMs sampleRate)
    | _ => .error .wrongLength
  | 0x32 =>
    match operands with
    | [gain] => decodeG w gain
    | _ => .error .wrongLength
  | 0x40 =>
    match operands with
    | [r0, r1, f0, f1, g0, g1, p0, p1] =>
      decodeB w ⟨operand64 r0 r1, operand64 f0 f1, operand64 g0 g1, operand64 p0 p1⟩
    | _ => .error .wrongLength
  | _ => .error .unassignedOpcode

/-- The decoder (R63, R66, R67, R68): total on any list of words, and a function of the words alone. -/
def decode : List Word → Except Reject Instr
  | [] => .error .emptyPacket
  | w :: operands =>
    if operands.length + 1 ≠ packetWords (opcOf w) then .error .wrongLength
    else if zeroOf w ≠ 0#15 then .error .reservedBit
    else decodeByOpcode w operands

/-! ## The encoder -/

/-- Word 0 of the instruction's packet (R61, R66). It is what ERRWORD records (10_state.md R16). -/
def Instr.word0 : Instr → Word
  | .nop => mkWord0 0x00#8 0#4 0#4 0#1
  | .clrst => mkWord0 0x01#8 0#4 0#4 0#1
  | .srst => mkWord0 0x02#8 0#4 0#4 0#1
  | .decode => mkWord0 0x10#8 0#4 0#4 0#1
  | .encode => mkWord0 0x11#8 0#4 0#4 0#1
  | .split => mkWord0 0x12#8 0#4 0#4 0#1
  | .merge => mkWord0 0x13#8 0#4 0#4 0#1
  | .chClear c => mkWord0 0x20#8 0#4 0#4 (bitOfChannel c)
  | .chAct c => mkWord0 0x21#8 0#4 0#4 (bitOfChannel c)
  | .apply c => mkWord0 0x22#8 0#4 0#4 (bitOfChannel c)
  | .cfgDlyt c _ => mkWord0 0x30#8 0#4 0#4 (bitOfChannel c)
  | .cfgDlym c _ _ => mkWord0 0x31#8 0#4 0#4 (bitOfChannel c)
  | .cfgVol c curve _ => mkWord0 0x32#8 (curveCode curve) 0#4 (bitOfChannel c)
  | .cfgBqLp c pkind _ => mkWord0 0x40#8 0#4 (paramKindCode pkind) (bitOfChannel c)
  | .cfgBqHp c pkind _ => mkWord0 0x40#8 1#4 (paramKindCode pkind) (bitOfChannel c)
  | .cfgBqBp c pkind _ => mkWord0 0x40#8 2#4 (paramKindCode pkind) (bitOfChannel c)
  | .cfgBqNotch c pkind _ => mkWord0 0x40#8 3#4 (paramKindCode pkind) (bitOfChannel c)
  | .cfgBqApk c pkind _ => mkWord0 0x40#8 4#4 (paramKindCode pkind) (bitOfChannel c)
  | .cfgBqPeq c pkind _ => mkWord0 0x40#8 5#4 (paramKindCode pkind) (bitOfChannel c)
  | .cfgBqLs c pkind _ => mkWord0 0x40#8 6#4 (paramKindCode pkind) (bitOfChannel c)
  | .cfgBqHs c pkind _ => mkWord0 0x40#8 7#4 (paramKindCode pkind) (bitOfChannel c)

/-- The operand words of the instruction's packet (R62, R64). -/
def Instr.operandWords : Instr → List Word
  | .nop => []
  | .clrst => []
  | .srst => []
  | .decode => []
  | .encode => []
  | .split => []
  | .merge => []
  | .chClear _ => []
  | .chAct _ => []
  | .apply _ => []
  | .cfgDlyt _ taps => [taps]
  | .cfgDlym _ delayMs sampleRate => [delayMs, sampleRate]
  | .cfgVol _ _ gain => [gain]
  | .cfgBqLp _ _ ops => biquadOperandWords ops
  | .cfgBqHp _ _ ops => biquadOperandWords ops
  | .cfgBqBp _ _ ops => biquadOperandWords ops
  | .cfgBqNotch _ _ ops => biquadOperandWords ops
  | .cfgBqApk _ _ ops => biquadOperandWords ops
  | .cfgBqPeq _ _ ops => biquadOperandWords ops
  | .cfgBqLs _ _ ops => biquadOperandWords ops
  | .cfgBqHs _ _ ops => biquadOperandWords ops

/-- The words of the instruction's packet. -/
def encode (i : Instr) : List Word := i.word0 :: i.operandWords

/-! ## The opcode map as a table (R66) -/

/-- One row of R66: a packet is the row's instruction when `(word0 AND mask) = value` and it has `words` words. -/
structure OpcodeRow where
  mnemonic : String
  value : Word
  mask : Word
  words : Nat
  deriving DecidableEq, Repr

/-- The table of R66, in its order. -/
def opcodeMap : List OpcodeRow :=
  [⟨"NOP", 0x00000000#32, 0xFFFFFFFF#32, 1⟩,
   ⟨"CLRST", 0x01000000#32, 0xFFFFFFFF#32, 1⟩,
   ⟨"SRST", 0x02000000#32, 0xFFFFFFFF#32, 1⟩,
   ⟨"DECODE", 0x10000000#32, 0xFFFFFFFF#32, 1⟩,
   ⟨"ENCODE", 0x11000000#32, 0xFFFFFFFF#32, 1⟩,
   ⟨"SPLIT", 0x12000000#32, 0xFFFFFFFF#32, 1⟩,
   ⟨"MERGE", 0x13000000#32, 0xFFFFFFFF#32, 1⟩,
   ⟨"CH.CLEAR", 0x20000000#32, 0xFFFFFFFE#32, 1⟩,
   ⟨"CH.ACT", 0x21000000#32, 0xFFFFFFFE#32, 1⟩,
   ⟨"APPLY", 0x22000000#32, 0xFFFFFFFE#32, 1⟩,
   ⟨"CFG.DLYT", 0x30000000#32, 0xFFFFFFFE#32, 2⟩,
   ⟨"CFG.DLYM", 0x31000000#32, 0xFFFFFFFE#32, 3⟩,
   ⟨"CFG.VOL", 0x32000000#32, 0xFF0FFFFE#32, 2⟩,
   ⟨"CFG.BQ.LP", 0x40000000#32, 0xFFF0FFFE#32, 9⟩,
   ⟨"CFG.BQ.HP", 0x40100000#32, 0xFFF0FFFE#32, 9⟩,
   ⟨"CFG.BQ.BP", 0x40200000#32, 0xFFF0FFFE#32, 9⟩,
   ⟨"CFG.BQ.NOTCH", 0x40300000#32, 0xFFF0FFFE#32, 9⟩,
   ⟨"CFG.BQ.APK", 0x40400000#32, 0xFFF0FFFE#32, 9⟩,
   ⟨"CFG.BQ.PEQ", 0x40500000#32, 0xFFF0FFFE#32, 9⟩,
   ⟨"CFG.BQ.LS", 0x40600000#32, 0xFFF0FFFE#32, 9⟩,
   ⟨"CFG.BQ.HS", 0x40700000#32, 0xFFF0FFFE#32, 9⟩]

/-- The packet `w :: operands` is the instruction of the row (R66). -/
def OpcodeRow.covers (row : OpcodeRow) (w : Word) (operands : List Word) : Bool :=
  decide (w &&& row.mask = row.value) && decide (operands.length + 1 = row.words)

/-- The mnemonic of the instruction's row (R66). -/
def Instr.mnemonic : Instr → String
  | .nop => "NOP"
  | .clrst => "CLRST"
  | .srst => "SRST"
  | .decode => "DECODE"
  | .encode => "ENCODE"
  | .split => "SPLIT"
  | .merge => "MERGE"
  | .chClear _ => "CH.CLEAR"
  | .chAct _ => "CH.ACT"
  | .apply _ => "APPLY"
  | .cfgDlyt _ _ => "CFG.DLYT"
  | .cfgDlym _ _ _ => "CFG.DLYM"
  | .cfgVol _ _ _ => "CFG.VOL"
  | .cfgBqLp _ _ _ => "CFG.BQ.LP"
  | .cfgBqHp _ _ _ => "CFG.BQ.HP"
  | .cfgBqBp _ _ _ => "CFG.BQ.BP"
  | .cfgBqNotch _ _ _ => "CFG.BQ.NOTCH"
  | .cfgBqApk _ _ _ => "CFG.BQ.APK"
  | .cfgBqPeq _ _ _ => "CFG.BQ.PEQ"
  | .cfgBqLs _ _ _ => "CFG.BQ.LS"
  | .cfgBqHs _ _ _ => "CFG.BQ.HS"

/-! ## The table's numbering of an instruction's bits -/

/-- The packet whose bits are the number `w` as spec/opcode_table.json numbers them: word i holds bits 32 i + 31 to 32 i.
Bits at and above `nbits` are zero, and the packet has as many words as its OPC asks for (at least `nbits` bits). -/
def packetOfTable (nbits w : Nat) : List Word :=
  let v := w % 2 ^ nbits
  let words := max ((nbits + 31) / 32) (packetWords (opcOf (BitVec.ofNat 32 v)))
  (List.range words).map (fun i => BitVec.ofNat 32 (v / 2 ^ (32 * i)))

/-- The instruction the decoder reads from the table's bits; none where it rejects them. -/
def decodeTableWord (nbits w : Nat) : Option Instr :=
  match decode (packetOfTable nbits w) with
  | .ok i => some i
  | .error _ => none

end Sys2Proof
end

