-- ==== Sys2Proof/Config.lean ====
section
/-! DEFINITION. What an implementation fixes (00_scope.md R5, 92_eei_decisions.md, the open parameters) and the free
values of 93_implementation_defined.md U1, U2, U3. An `opaque` constant has no body: no proof can see what it is, so a
claim that holds is true whatever it is. -/

namespace Sys2Proof

/-- The five buffer memories of 10_state.md R30. -/
inductive Buffer where
  | pcmin
  | ilv
  | ch0
  | ch1
  | pcmout
  deriving DecidableEq, Repr

namespace Config

/-- ID, the identification register's constant (10_state.md R12). -/
def idValue : Word := 0x44455131#32

/-- TAP_MAX, the largest tap count of a delay line: 2^28 (00_scope.md R5). -/
def tapMax : Nat := 2 ^ 28

/-- The spec's default for NSLOT (00_scope.md R5). Read by `State.reset` alone (log 3, DESIGN CHOICE). -/
def defaultNslot : BitVec 8 := 8#8

/-- The spec's default for MAXF (00_scope.md R5). Read by `State.reset` alone (log 3, DESIGN CHOICE). -/
def defaultMaxf : BitVec 24 := 4096#24

/-- U1, the 32-bit memories: element `index` of a buffer that nothing has written since the power-up number `powerUp`.
FREE VALUE: any bit pattern, fixed once per power-up (log 4). -/
opaque powerUpWord : (powerUp : Nat) → Buffer → (index : Nat) → BitVec 32

/-- U1, the 16-bit memories: as `powerUpWord`. FREE VALUE (log 4). -/
opaque powerUpHalf : (powerUp : Nat) → Buffer → (index : Nat) → BitVec 16

/-- U1, the 32-bit memories: element `index` of the buffer that a command was writing when a reset cut it short
(70_reset_and_hazards.md R240). FREE VALUE, its own for each value of the command counter (log 9). -/
opaque abandonedWord : (tick : Nat) → Buffer → (index : Nat) → BitVec 32

/-- U1, the 16-bit memories: as `abandonedWord`. FREE VALUE (log 9). -/
opaque abandonedHalf : (tick : Nat) → Buffer → (index : Nat) → BitVec 16

/-- U2: the sign and payload of the NaN that one floating-point operation delivers: command number `tick`, slot `slot`,
sample `sample` of the loop, operation `site` of the command's pseudocode. Four plain numbers, so that no two operations
of a run share a value. FREE VALUE (log 5). -/
opaque nanBits : (tick : Nat) → (slot : Nat) → (sample : Nat) → (site : Nat) → BitVec 64

/-- U3: the implementation's sine, where `F_SIN` of R92 leaves it open (log 6). -/
opaque sinImpl : F64 → F64

/-- U3: the implementation's cosine, where `F_COS` of R92 leaves it open (log 6). -/
opaque cosImpl : F64 → F64

/-- U3: the implementation's power, where `F_POW` of R92 leaves it open (log 6). -/
opaque powImpl : F64 → F64 → F64

end Config
end Sys2Proof
end

