-- ==== Sys2Proof/Machine/Float.lean ====
section
/-! DEFINITION. The floating-point laws of 40_numerics.md: binary32 and binary64 values, each operation computed exactly and
rounded once to nearest, ties to even (R85), with free quiet NaNs (R89, U2).

A finite value is a whole number of units, the unit being the least positive value of its format: 2^-149 for binary32 and
2^-1074 for binary64. So every exact result here is a quotient of two natural numbers and a sign, or a square root. -/

namespace Sys2Proof
namespace Machine

/-! ## Formats and values (R83, R84) -/

/-- A binary interchange format: the widths of its fraction and of its biased exponent. -/
structure FloatFormat where
  fracBits : Nat
  expBits : Nat
  deriving DecidableEq, Repr

/-- binary32 (R83). -/
def binary32 : FloatFormat := ⟨23, 8⟩

/-- binary64 (R84). -/
def binary64 : FloatFormat := ⟨52, 11⟩

/-- The unit of the format is 2 to the minus this: bias + fraction width - 1 (149, 1074). -/
def FloatFormat.unitExp (f : FloatFormat) : Nat := 2 ^ (f.expBits - 1) - 2 + f.fracBits

/-- The magnitude bits (all but the sign) of an infinity. -/
def FloatFormat.infMag (f : FloatFormat) : Nat := (2 ^ f.expBits - 1) * 2 ^ f.fracBits

/-- The weight of the sign bit. -/
def FloatFormat.signWeight (f : FloatFormat) : Nat := 2 ^ (f.expBits + f.fracBits)

/-- What a bit pattern stands for: a NaN, an infinity, or a finite number of units with a sign (two zeros). -/
inductive FloatValue where
  | nan
  | inf (neg : Bool)
  | fin (neg : Bool) (units : Nat)
  deriving DecidableEq, Repr

/-- The units of the finite value with these magnitude bits (R83): subnormal when the exponent field is 0. -/
def magUnits (f : FloatFormat) (mag : Nat) : Nat :=
  if mag / 2 ^ f.fracBits = 0 then mag
  else (2 ^ f.fracBits + mag % 2 ^ f.fracBits) * 2 ^ (mag / 2 ^ f.fracBits - 1)

/-- The value of a bit pattern, given as a number below twice `signWeight` (R83, R84). -/
def floatValue (f : FloatFormat) (bits : Nat) : FloatValue :=
  let neg := decide (f.signWeight ≤ bits)
  let mag := bits % f.signWeight
  if f.infMag < mag then .nan
  else if mag = f.infMag then .inf neg
  else .fin neg (magUnits f mag)

/-- The value of a binary32 pattern. -/
def value32 (a : F32) : FloatValue := floatValue binary32 a.toNat

/-- The value of a binary64 pattern. -/
def value64 (a : F64) : FloatValue := floatValue binary64 a.toNat

/-! ## Rounding (R85) -/

/-- The quotient `num / scale` rounded to a whole number, to nearest, ties to even. -/
def roundQuotient (num scale : Nat) : Nat :=
  num / scale +
    (if scale < 2 * (num % scale) ∨ (2 * (num % scale) = scale ∧ num / scale % 2 = 1) then 1 else 0)

/-- By how many binary places the quotient `num / den`, in units, is too wide for the fraction. -/
def roundShift (f : FloatFormat) (num den : Nat) : Nat := Nat.log2 (num / den) - f.fracBits

/-- The magnitude bits of `num / den` units rounded once to the format, to nearest, ties to even: subnormal results are
kept, and a result beyond the largest finite number is an infinity (R85). The exponent field is `shift + 1` less the
hidden bit, so the sum also carries into it. -/
def roundMag (f : FloatFormat) (num den : Nat) : Nat :=
  min (roundShift f num den * 2 ^ f.fracBits + roundQuotient num (den * 2 ^ roundShift f num den)) f.infMag

/-! ## Exact results -/

/-- The exact result of an operation: a NaN, an infinity, or `num / den` units with a sign. -/
inductive Exact where
  | nan
  | inf (neg : Bool)
  | ratio (neg : Bool) (num den : Nat)
  deriving DecidableEq, Repr

/-- A product (R89, R90): 0 times infinity is invalid; the sign is the product of the signs. -/
def exactMul (f : FloatFormat) : FloatValue → FloatValue → Exact
  | .fin s m, .fin t n => .ratio (s != t) (m * n) (2 ^ f.unitExp)
  | .fin s m, .inf t => if m = 0 then .nan else .inf (s != t)
  | .inf s, .fin t n => if n = 0 then .nan else .inf (s != t)
  | .inf s, .inf t => .inf (s != t)
  | .nan, _ => .nan
  | _, .nan => .nan

/-- A quotient (R89, R90): 0 / 0 and infinity / infinity are invalid; a nonzero number divided by zero is an infinity. -/
def exactDiv (f : FloatFormat) : FloatValue → FloatValue → Exact
  | .fin s m, .fin t n =>
    if n = 0 then (if m = 0 then .nan else .inf (s != t)) else .ratio (s != t) (m * 2 ^ f.unitExp) n
  | .fin s _, .inf t => .ratio (s != t) 0 1
  | .inf s, .fin t _ => .inf (s != t)
  | .inf _, .inf _ => .nan
  | .nan, _ => .nan
  | _, .nan => .nan

/-- A sum (R89, R90): infinity - infinity is invalid; x + (-x) is +0. -/
def exactAdd : FloatValue → FloatValue → Exact
  | .fin s m, .fin t n =>
    if s = t then .ratio s (m + n) 1
    else if n < m then .ratio s (m - n) 1
    else if m < n then .ratio t (n - m) 1
    else .ratio false 0 1
  | .fin _ _, .inf t => .inf t
  | .inf s, .fin _ _ => .inf s
  | .inf s, .inf t => if s = t then .inf s else .nan
  | .nan, _ => .nan
  | _, .nan => .nan

/-- The sign flipped, for a difference. -/
def FloatValue.negate : FloatValue → FloatValue
  | .nan => .nan
  | .inf s => .inf (!s)
  | .fin s m => .fin (!s) m

/-- Binary digits of the square root of `n`, from weight 2^(b-1) down: `r` grows to the largest number whose square is
at most `n`. -/
def isqrtFrom (n : Nat) : Nat → Nat → Nat
  | 0, r => r
  | b + 1, r => isqrtFrom n b (if (r + 2 ^ b) * (r + 2 ^ b) ≤ n then r + 2 ^ b else r)

/-- The integer square root. -/
def isqrt (n : Nat) : Nat := isqrtFrom n (Nat.log2 n / 2 + 1) 0

/-- A square root (R93). Where the root of the units is no whole number it lies strictly between `r` and `r + 1`, and so
does `r + 1/2`, which stands for it: the root of any positive value has many more units than the fraction has bits, so no
rounding boundary lies between `r` and `r + 1` and both round alike. -/
def exactSqrt (f : FloatFormat) : FloatValue → Exact
  | .fin s m =>
    if m = 0 then .ratio s 0 1
    else if s then .nan
    else
      let r := isqrt (m * 2 ^ f.unitExp)
      .ratio false (2 * r + (if r * r = m * 2 ^ f.unitExp then 0 else 1)) 2
  | .inf s => if s then .nan else .inf false
  | .nan => .nan

/-- A change of format (R87): the units of `src` as units of `dst`. -/
def exactConvert (src dst : FloatFormat) : FloatValue → Exact
  | .fin s m => .ratio s (m * 2 ^ dst.unitExp) (2 ^ src.unitExp)
  | .inf s => .inf s
  | .nan => .nan

/-! ## Delivering a result -/

/-- Any quiet NaN of binary32: exponent all ones and bit 22 set, the sign and the rest free (R83, R89, U2). -/
def quietNaN32 (free : BitVec 64) : F32 := free.setWidth 32 ||| 0x7FC00000#32

/-- Any quiet NaN of binary64 (R84, R89, U2). -/
def quietNaN64 (free : BitVec 64) : F64 := free ||| 0x7FF8000000000000#64

/-- A sign and magnitude bits as a binary32 pattern. -/
def pack32 (neg : Bool) (mag : Nat) : F32 :=
  BitVec.ofNat 32 ((if neg then binary32.signWeight else 0) + mag)

/-- A sign and magnitude bits as a binary64 pattern. -/
def pack64 (neg : Bool) (mag : Nat) : F64 :=
  BitVec.ofNat 64 ((if neg then binary64.signWeight else 0) + mag)

/-- The exact result rounded once to binary32 (R85). -/
def deliver32 (free : BitVec 64) : Exact → F32
  | .nan => quietNaN32 free
  | .inf neg => pack32 neg binary32.infMag
  | .ratio neg num den => pack32 neg (roundMag binary32 num den)

/-- The exact result rounded once to binary64 (R85). -/
def deliver64 (free : BitVec 64) : Exact → F64
  | .nan => quietNaN64 free
  | .inf neg => pack64 neg binary64.infMag
  | .ratio neg num den => pack64 neg (roundMag binary64 num den)

/-! ## The operations (00_scope.md R7). `free` is the free value behind the NaN this one operation may deliver. -/

def f32Mul (free : BitVec 64) (a b : F32) : F32 :=
  deliver32 free (exactMul binary32 (value32 a) (value32 b))

def f32Div (free : BitVec 64) (a b : F32) : F32 :=
  deliver32 free (exactDiv binary32 (value32 a) (value32 b))

def f64Add (free : BitVec 64) (a b : F64) : F64 :=
  deliver64 free (exactAdd (value64 a) (value64 b))

def f64Sub (free : BitVec 64) (a b : F64) : F64 :=
  deliver64 free (exactAdd (value64 a) (value64 b).negate)

def f64Mul (free : BitVec 64) (a b : F64) : F64 :=
  deliver64 free (exactMul binary64 (value64 a) (value64 b))

def f64Div (free : BitVec 64) (a b : F64) : F64 :=
  deliver64 free (exactDiv binary64 (value64 a) (value64 b))

/-- Correctly rounded, not a configuration function (R93). -/
def f64Sqrt (free : BitVec 64) (a : F64) : F64 :=
  deliver64 free (exactSqrt binary64 (value64 a))

/-- The sign bit flipped and nothing else, also of zeros, infinities and NaNs (R90). -/
def f64Neg (a : F64) : F64 := a ^^^ 0x8000000000000000#64

/-- The f32 equal to the integer (R87). -/
def f32OfI16 (x : Pcm16) : F32 :=
  pack32 x.msb (roundMag binary32 (x.toInt.natAbs * 2 ^ binary32.unitExp) 1)

/-- The f64 equal to the f32; a NaN becomes a NaN (R87). -/
def f64OfF32 (free : BitVec 64) (a : F32) : F64 :=
  deliver64 free (exactConvert binary32 binary64 (value32 a))

/-- The f64 rounded to f32 (R87). -/
def f32OfF64 (free : BitVec 64) (a : F64) : F32 :=
  deliver32 free (exactConvert binary64 binary32 (value64 a))

/-! ## Comparisons (R88) -/

def isNaN32 (a : F32) : Bool := decide (value32 a = .nan)

def isNaN64 (a : F64) : Bool := decide (value64 a = .nan)

/-- `v > 0.0`: false for a NaN and for both zeros. -/
def FloatValue.isPositive : FloatValue → Bool
  | .fin false m => decide (m ≠ 0)
  | .fin true _ => false
  | .inf s => !s
  | .nan => false

/-- `v < 0.0`: false for a NaN and for both zeros. -/
def FloatValue.isNegative : FloatValue → Bool
  | .fin true m => decide (m ≠ 0)
  | .fin false _ => false
  | .inf s => s
  | .nan => false

/-- One of the two zeros. -/
def FloatValue.isZero : FloatValue → Bool
  | .fin _ m => decide (m = 0)
  | .inf _ => false
  | .nan => false

/-- `a < 0.0` on binary32. -/
def f32IsNegative (a : F32) : Bool := (value32 a).isNegative

/-- `a > 0.0` on binary64. -/
def f64IsPositive (a : F64) : Bool := (value64 a).isPositive

/-! ## Conversion to PCM16 (R82) -/

/-- `sat16_trunc` of a value: at or above 32767.0 it is 32767, at or below -32768.0 it is -32768, else the fraction is
dropped. A NaN never reaches it (R102 handles it first); the arm answers encode1's 0. -/
def sat16Trunc : FloatValue → Pcm16
  | .fin false m =>
    if 32767 ≤ m / 2 ^ binary32.unitExp then 0x7FFF#16 else BitVec.ofNat 16 (m / 2 ^ binary32.unitExp)
  | .fin true m =>
    if 32768 ≤ m / 2 ^ binary32.unitExp then 0x8000#16 else -(BitVec.ofNat 16 (m / 2 ^ binary32.unitExp))
  | .inf neg => if neg then 0x8000#16 else 0x7FFF#16
  | .nan => 0x0000#16

/-! ## Constants (R94) -/

/-- The f64 nearest to π. -/
def piF64 : F64 := 0x400921FB54442D18#64

def one64 : F64 := 0x3FF0000000000000#64

def two64 : F64 := 0x4000000000000000#64

def ten64 : F64 := 0x4024000000000000#64

def forty64 : F64 := 0x4044000000000000#64

/-- +0.0. -/
def zero64 : F64 := 0x0000000000000000#64

def f32Const32767 : F32 := 0x46FFFE00#32

def f32Const32768 : F32 := 0x47000000#32

/-! ## The elementary functions (R92): the implementation's, kept to P1 (pure), P2 (a NaN in gives a NaN out), P3 -/

/-- A NaN whatever the pattern: the pattern itself where it is one, else made one (P2). -/
def asNaN64 (a : F64) : F64 := if isNaN64 a then a else quietNaN64 a

/-- F_SIN (R92). -/
def fSin (x : F64) : F64 := if isNaN64 x then asNaN64 (Config.sinImpl x) else Config.sinImpl x

/-- F_COS (R92). -/
def fCos (x : F64) : F64 := if isNaN64 x then asNaN64 (Config.cosImpl x) else Config.cosImpl x

/-- F_POW (R92): exactly 1.0 for a zero exponent and base 10.0 or 2.0 (P3). -/
def fPow (b x : F64) : F64 :=
  if isNaN64 b || isNaN64 x then asNaN64 (Config.powImpl b x)
  else if (value64 x).isZero && (decide (b = ten64) || decide (b = two64)) then one64
  else Config.powImpl b x

/-! ## Literals of the assembler (30_encoding.md R69)

R69 says only that a literal is the nearest number, ties to even, and leaves two points open, which are the model's DESIGN CHOICE (log 13): a literal
that rounds beyond the largest finite number of its format is the infinity, as an operation's result would be
(40_numerics.md R85), and a negative literal other than zero that rounds to zero is -0.0, as the literal -0.0 is
(95_test_vectors.md). -/

/-- The f32 nearest to the decimal `num / den`, ties to even; beyond the largest finite f32 the infinity, and the sign kept on
what rounds to zero: both DESIGN CHOICE (log 13). -/
def f32Literal (neg : Bool) (num den : Nat) : F32 :=
  pack32 neg (roundMag binary32 (num * 2 ^ binary32.unitExp) den)

/-- The f64 nearest to the decimal `num / den`, ties to even; beyond the largest finite f64 the infinity, and the sign kept on
what rounds to zero: both DESIGN CHOICE (log 13). -/
def f64Literal (neg : Bool) (num den : Nat) : F64 :=
  pack64 neg (roundMag binary64 (num * 2 ^ binary64.unitExp) den)

end Machine
end Sys2Proof
end

