-- ==== Sys2Proof/Machine/Operands.lean ====
section
/-! DEFINITION. What the operands of the CFG commands mean before any state is touched: the tap count (44_delay_line.md), the
response types and parameter kinds, and the validation of 46_biquad_coefficients.md R160. -/

namespace Sys2Proof
namespace Machine

/-! ## Delay operands -/

/-- `coerce_taps` (R142): the tap count, and whether it was clamped, which is also when it warns. -/
def coerceTaps (n : Nat) : Nat × Bool :=
  if Config.tapMax < n then (1, true)
  else if n = 0 then (1, false)
  else (n, false)

/-- The tap count of a delay in milliseconds, exact: the product first, then the division, floored (R141, R81). -/
def tapsOfDelay (delayMs sampleRate : Word) : Nat := delayMs.toNat * sampleRate.toNat / 1000

/-- KIND of a delay slot: 1, and the CLAMPED bit 16 (R140, 10_state.md R23). -/
def delayKind (clamped : Bool) : BitVec 64 := if clamped then 0x10001#64 else 0x00001#64

/-! ## Volume operands -/

/-- KIND of a volume slot: 2, and CURVE, which is Linear here, in bits 15:12 (R150, 10_state.md R23). -/
def volumeKind : BitVec 64 := 0x00002#64

/-! ## Biquad operands -/

/-- The eight response types (30_encoding.md R61). -/
inductive ResponseType where
  | lowPass
  | highPass
  | bandPass
  | notch
  | audioPeak
  | peakingEq
  | lowShelf
  | highShelf
  deriving DecidableEq, Repr

/-- TYPE (R61). -/
def ResponseType.code : ResponseType → Nat
  | .lowPass => 0
  | .highPass => 1
  | .bandPass => 2
  | .notch => 3
  | .audioPeak => 4
  | .peakingEq => 5
  | .lowShelf => 6
  | .highShelf => 7

/-- Which parameter kinds a type takes (R160): the shelves take Slope only, the other six Q or Bandwidth only, and a
reserved kind is never taken. -/
def ResponseType.takes : ResponseType → ParamKind → Bool
  | .lowShelf, pkind => decide (pkind = .slope)
  | .highShelf, pkind => decide (pkind = .slope)
  | .lowPass, pkind => decide (pkind = .q ∨ pkind = .bandwidth)
  | .highPass, pkind => decide (pkind = .q ∨ pkind = .bandwidth)
  | .bandPass, pkind => decide (pkind = .q ∨ pkind = .bandwidth)
  | .notch, pkind => decide (pkind = .q ∨ pkind = .bandwidth)
  | .audioPeak, pkind => decide (pkind = .q ∨ pkind = .bandwidth)
  | .peakingEq, pkind => decide (pkind = .q ∨ pkind = .bandwidth)

/-- The six tests of R160 all pass. GAIN_DB is not tested. -/
def biquadOperandsValid (type : ResponseType) (pkind : ParamKind) (ops : BiquadOperands) : Bool :=
  type.takes pkind && f64IsPositive ops.rate && f64IsPositive ops.f0 && f64IsPositive ops.param

/-- KIND of a biquad slot: 3, TYPE in bits 7:4, PKIND in bits 11:8 (R163, 10_state.md R23). -/
def biquadKind (type : ResponseType) (pkind : ParamKind) : BitVec 64 :=
  3#64 + (BitVec.ofNat 64 type.code <<< 4) + ((paramKindCode pkind).setWidth 64 <<< 8)

end Machine
end Sys2Proof
end

