-- ==== Sys2Proof/Machine/State.lean ====
section
/-! DEFINITION. The state of the block (10_state.md R10): the control registers, the slot register file, the delay memories
and the buffer memories, and the model's own fields (the host's pending actions, the values its reads returned, and two
counters for free values). Plain data throughout. -/

namespace Sys2Proof
namespace Machine

/-- The result codes 0 to 7 (60_exceptions.md R211), in the order of their numbers. -/
inductive ResultCode where
  | ok
  | lengthMismatch
  | invalidParameter
  | resourceLimitExceeded
  | illegalCommand
  | chainState
  | chainFull
  | badLength
  deriving DecidableEq, Repr

/-- CHAINc.STATE (10_state.md R18, 43_filter_chain.md R121). The value 3 never occurs: it has no constructor. -/
inductive ChainPhase where
  | opened
  | active
  | failed
  deriving DecidableEq, Repr

/-- SR[c][k]: the nineteen 64-bit containers of one slot, in the order f = 0 to 18 (10_state.md R22 to R28). -/
structure Slot where
  kind : BitVec 64
  taps : BitVec 64
  head : BitVec 64
  gain : BitVec 64
  b0 : BitVec 64
  b1 : BitVec 64
  b2 : BitVec 64
  a0 : BitVec 64
  a1 : BitVec 64
  a2 : BitVec 64
  n0 : BitVec 64
  n1 : BitVec 64
  n2 : BitVec 64
  n3 : BitVec 64
  n4 : BitVec 64
  x1 : BitVec 64
  x2 : BitVec 64
  y1 : BitVec 64
  y2 : BitVec 64
  deriving DecidableEq, Repr

/-- An EMPTY slot: all nineteen fields zero (10_state.md R28). -/
def Slot.empty : Slot :=
  ⟨0, 0, 0, 0, 0, 0, 0, 0, 0, 0, 0, 0, 0, 0, 0, 0, 0, 0, 0⟩

/-- The cells of one memory space, by index: the indices rise strictly, and an index that is not listed reads as the
space's own reading of an unlisted cell says (log 4, log 7). Elements, not bytes: no space can be addressed by byte
(20_memory.md R41). -/
abbrev Cells (w : Nat) := List (Nat × BitVec w)

/-- The chain of one channel: the fields of CHAINc (10_state.md R18) and its bank of the slot register file, SR[c], by
slot number; a slot that is not listed is EMPTY. -/
structure Chain where
  phase : ChainPhase
  nfilt : BitVec 8
  slots : List (Nat × Slot)
  deriving DecidableEq, Repr

/-- The memory spaces (20_memory.md R40): the five buffer memories, where an unlisted element is one that nothing has
written since power-up, and DLY[c], by slot number, where an unlisted element is +0.0 (10_state.md R29). -/
structure Memory where
  pcmin : Cells 16
  ilv : Cells 32
  ch0 : Cells 32
  ch1 : Cells 32
  pcmout : Cells 16
  dly0 : List (Nat × Cells 32)
  dly1 : List (Nat × Cells 32)
  deriving DecidableEq, Repr

/-! ## The host's side (20_memory.md R45 to R47, 70_reset_and_hazards.md R240, R255) -/

/-- The addresses `space:index` a HostRead can name; DLY has none (R45). The index is any number: one outside the range of
its space is R47's. -/
inductive HostAddr where
  | reg (i : Nat)
  | slot (c k f : Nat)
  | pcmin (i : Nat)
  | ilv (i : Nat)
  | ch (c : Channel) (i : Nat)
  | pcmout (i : Nat)
  deriving DecidableEq, Repr

/-- The element a HostRead returns, at the width of its space (R45, R43). -/
inductive HostValue where
  | half (v : BitVec 16)
  | word (v : BitVec 32)
  | dword (v : BitVec 64)
  deriving DecidableEq, Repr

/-- A HostWrite: an address and an element of its space's width (R46). -/
inductive HostWrite where
  | reg (i : Nat) (v : BitVec 32)
  | slot (c k f : Nat) (v : BitVec 64)
  | pcmin (i : Nat) (v : BitVec 16)
  | ilv (i : Nat) (v : BitVec 32)
  | ch (c : Channel) (i : Nat) (v : BitVec 32)
  | pcmout (i : Nat) (v : BitVec 16)
  deriving DecidableEq, Repr

/-- One action of the host (R49, R240, R255). A packet has a word 0 and so is never empty (30_encoding.md R60). -/
inductive HostAction where
  /-- a command packet: word 0 and the operand words (R60) -/
  | packet (word0 : Word) (operands : List Word)
  /-- HostRead (R45) -/
  | read (a : HostAddr)
  /-- HostWrite (R46) -/
  | write (w : HostWrite)
  /-- the external reset input between two commands, R240 cause (2) -/
  | reset
  /-- the external reset input in an implementation where it can cut a running command short: the packet that was running
  (R240) -/
  | resetDuring (word0 : Word) (operands : List Word)
  /-- a power-up, R240 cause (1): power-down has lost all state -/
  | powerUp
  deriving DecidableEq, Repr

/-- The block and the host's list of actions. -/
structure State where
  /-- CAP, {MAXF, NSLOT} (R13); a constant of the block -/
  cap : Word
  /-- STATUS (R14) -/
  status : Word
  /-- RESULT (R15) -/
  result : Word
  /-- ERRWORD (R16) -/
  errword : Word
  /-- LEN_IN (R17) -/
  lenIn : Word
  /-- LEN_ILV (R17) -/
  lenIlv : Word
  /-- LEN_CH0 (R17) -/
  lenCh0 : Word
  /-- LEN_CH1 (R17) -/
  lenCh1 : Word
  /-- LEN_OUT (R17) -/
  lenOut : Word
  /-- CHAIN0 and SR[0] (R18, R22) -/
  chain0 : Chain
  /-- CHAIN1 and SR[1] (R18, R22) -/
  chain1 : Chain
  /-- the buffer memories and the delay memories (R29, R30) -/
  mem : Memory
  /-- the MODEL's input: the host's actions not yet served, in order (log 1) -/
  inbox : List HostAction
  /-- the MODEL's output: what each HostRead returned, oldest first (log 2) -/
  answers : List (HostAddr × HostValue)
  /-- the MODEL's counter for free NaN bits: one up at every command (log 5) -/
  freeTick : Nat
  /-- the MODEL's counter for unspecified buffer contents: one up at every power-up (log 4) -/
  powerUps : Nat
  deriving DecidableEq, Repr

/-- The reasons a step can stop with a fault: none. "No sample value, no PCM value, no filter state and no coefficient
value" raises more than a result code (60_exceptions.md R210, R224), so the type has no constructor (log 10). -/
inductive Fault where
  deriving DecidableEq, Repr

/-- The reasons a step can be refused. -/
inductive Refusal where
  /-- `exec` has no meaning for this instruction yet. No arm answers it: every instruction is modelled. Safe. -/
  | notModelled (mnemonic : String)
  deriving DecidableEq, Repr

/-- A chain after reset: OPEN, NFILT = 0, every slot EMPTY (10_state.md R32). -/
def Chain.initial : Chain := ⟨.opened, 0#8, []⟩

/-- The memory spaces right after a power-up: nothing written, no delay memory (10_state.md R32). -/
def Memory.unwritten : Memory := ⟨[], [], [], [], [], [], []⟩

/-- The machine right after a power-up reset (10_state.md R32, 70_reset_and_hazards.md R241), with the spec's default
capacities in CAP (log 3). -/
def State.reset : State where
  cap := Config.defaultMaxf ++ Config.defaultNslot
  status := 0#32
  result := 0#32
  errword := 0#32
  lenIn := 0#32
  lenIlv := 0#32
  lenCh0 := 0#32
  lenCh1 := 0#32
  lenOut := 0#32
  chain0 := Chain.initial
  chain1 := Chain.initial
  mem := Memory.unwritten
  inbox := []
  answers := []
  freeTick := 0
  powerUps := 0

end Machine
end Sys2Proof
end

