-- ==== Sys2Proof/Machine/Flags.lean ====
section
/-! DEFINITION. The result codes and the sticky flags of STATUS (10_state.md R14, R15; 60_exceptions.md R211). The block has
no other flag (R21, 40_numerics.md R91). -/

namespace Sys2Proof
namespace Machine

/-- The number of a result code (R211). -/
def ResultCode.number : ResultCode → Nat
  | .ok => 0
  | .lengthMismatch => 1
  | .invalidParameter => 2
  | .resourceLimitExceeded => 3
  | .illegalCommand => 4
  | .chainState => 5
  | .chainFull => 6
  | .badLength => 7

/-- What RESULT holds after a command with this code (R15). -/
def ResultCode.word (code : ResultCode) : Word := BitVec.ofNat 32 code.number

/-- The flag a code sets: bit (code - 1) of STATUS, none for OK (R14). -/
def ResultCode.flag (code : ResultCode) : Word :=
  match code with
  | .ok => 0#32
  | .lengthMismatch => 0x01#32
  | .invalidParameter => 0x02#32
  | .resourceLimitExceeded => 0x04#32
  | .illegalCommand => 0x08#32
  | .chainState => 0x10#32
  | .chainFull => 0x20#32
  | .badLength => 0x40#32

/-- CHAINc.STATE as its 2-bit field (R18). -/
def ChainPhase.code : ChainPhase → BitVec 2
  | .opened => 0#2
  | .active => 1#2
  | .failed => 2#2

/-- CHAINc as the host reads it: bits 31:16 zero, NFILT, bits 7:2 zero, STATE (R18). -/
def Chain.word (ch : Chain) : Word := 0#16 ++ ch.nfilt ++ 0#6 ++ ch.phase.code

end Machine
end Sys2Proof
end

