-- ==== Sys2Proof/Machine/Ops.lean ====
section
/-! DEFINITION. The named operations over memory and registers, the completion of a command (60_exceptions.md R220), which is
this machine's whole taking of an exception (there is no return from one, R221), and the common procedure of the CFG
commands (43_filter_chain.md R125). -/

namespace Sys2Proof
namespace Machine

/-! ## Cells: a memory space as a list by strictly rising index -/

/-- The entry at index `i`, if one is listed. -/
def lookupCell {α : Type} : List (Nat × α) → Nat → Option α
  | [], _ => none
  | (j, u) :: rest, i => if i = j then some u else lookupCell rest i

/-- `v` at index `i`, in its place. -/
def storeCell {α : Type} : List (Nat × α) → Nat → α → List (Nat × α)
  | [], i, v => [(i, v)]
  | (j, u) :: rest, i, v =>
    if i < j then (i, v) :: (j, u) :: rest
    else if i = j then (i, v) :: rest
    else (j, u) :: storeCell rest i v

/-- Nothing listed at index `i`. -/
def dropCell {α : Type} : List (Nat × α) → Nat → List (Nat × α)
  | [], _ => []
  | (j, u) :: rest, i => if i = j then dropCell rest i else (j, u) :: dropCell rest i

/-- A space whose unlisted entries read as `dflt`. -/
def readOr {α : Type} (dflt : α) (m : List (Nat × α)) (i : Nat) : α := (lookupCell m i).getD dflt

/-- A write to a space whose unlisted entries read as `dflt`: writing `dflt` removes the entry. -/
def storeOr {α : Type} [DecidableEq α] (dflt : α) (m : List (Nat × α)) (i : Nat) (v : α) : List (Nat × α) :=
  if v = dflt then dropCell m i else storeCell m i v

/-- `vs` at the indices from `i` up, in ascending order: a command's loop of writes (20_memory.md R48). -/
def storeFrom {α : Type} : List (Nat × α) → Nat → List α → List (Nat × α)
  | m, _, [] => m
  | m, i, v :: vs => storeFrom (storeCell m i v) (i + 1) vs

/-- The indices rise strictly. -/
abbrev Rising {α : Type} (m : List (Nat × α)) : Prop := m.Pairwise (fun a b => a.1 < b.1)

/-- One form for one content: indices rise strictly, and no entry equals what an unlisted one reads as. -/
abbrev Canonical {α : Type} (dflt : α) (m : List (Nat × α)) : Prop := Rising m ∧ ∀ p ∈ m, p.2 ≠ dflt

/-- The canonical form of all memory spaces (log 4, log 7): a buffer memory lists what has been written since power-up, and
a delay memory lists its elements that are not +0.0. -/
abbrev Memory.wf (m : Memory) : Prop :=
  Rising m.pcmin ∧ Rising m.ilv ∧ Rising m.ch0 ∧ Rising m.ch1 ∧ Rising m.pcmout ∧
  (Canonical [] m.dly0 ∧ ∀ p ∈ m.dly0, Canonical 0#32 p.2) ∧
  (Canonical [] m.dly1 ∧ ∀ p ∈ m.dly1, Canonical 0#32 p.2)

/-! ## Capacities (10_state.md R13) -/

/-- NSLOT = CAP[7:0]. -/
def State.nslot (s : State) : BitVec 8 := s.cap.extractLsb' 0 8

/-- MAXF = CAP[31:8]. -/
def State.maxf (s : State) : Nat := (s.cap.extractLsb' 8 24).toNat

/-! ## The state of one channel -/

/-- CHAINc and SR[c]. -/
def State.chain (s : State) : Channel → Chain
  | .ch0 => s.chain0
  | .ch1 => s.chain1

def State.setChain (s : State) (c : Channel) (ch : Chain) : State :=
  match c with
  | .ch0 => { s with chain0 := ch }
  | .ch1 => { s with chain1 := ch }

/-- SR[c][k]: a slot that is not listed is EMPTY (R22, R28). -/
def State.slot (s : State) (c : Channel) (k : Nat) : Slot := readOr Slot.empty (s.chain c).slots k

def State.setSlot (s : State) (c : Channel) (k : Nat) (r : Slot) : State :=
  s.setChain c { s.chain c with slots := storeOr Slot.empty (s.chain c).slots k r }

/-- DLY[c], by slot. -/
def State.delays (s : State) : Channel → List (Nat × Cells 32)
  | .ch0 => s.mem.dly0
  | .ch1 => s.mem.dly1

def State.setDelays (s : State) (c : Channel) (d : List (Nat × Cells 32)) : State :=
  match c with
  | .ch0 => { s with mem := { s.mem with dly0 := d } }
  | .ch1 => { s with mem := { s.mem with dly1 := d } }

/-- DLY[c][k]: an element that is not listed is +0.0 (R29). -/
def State.ring (s : State) (c : Channel) (k : Nat) : Cells 32 := readOr [] (s.delays c) k

def State.setRing (s : State) (c : Channel) (k : Nat) (r : Cells 32) : State :=
  s.setDelays c (storeOr [] (s.delays c) k r)

/-- LEN_CHc. -/
def State.lenCh (s : State) : Channel → Word
  | .ch0 => s.lenCh0
  | .ch1 => s.lenCh1

/-- CH[c]: CH0 or CH1 (00_scope.md R7). -/
def State.chCells (s : State) : Channel → Cells 32
  | .ch0 => s.mem.ch0
  | .ch1 => s.mem.ch1

def State.setChCells (s : State) (c : Channel) (m : Cells 32) : State :=
  match c with
  | .ch0 => { s with mem := { s.mem with ch0 := m } }
  | .ch1 => { s with mem := { s.mem with ch1 := m } }

/-! ## Reading the buffer memories: what nothing has written since power-up is a free value (U1, log 4) -/

def State.pcminAt (s : State) (i : Nat) : Pcm16 :=
  (lookupCell s.mem.pcmin i).getD (Config.powerUpHalf s.powerUps .pcmin i)

def State.ilvAt (s : State) (i : Nat) : F32 :=
  (lookupCell s.mem.ilv i).getD (Config.powerUpWord s.powerUps .ilv i)

/-- The buffer memory of a channel. -/
def chBuffer : Channel → Buffer
  | .ch0 => .ch0
  | .ch1 => .ch1

def State.chAt (s : State) (c : Channel) (i : Nat) : F32 :=
  (lookupCell (s.chCells c) i).getD (Config.powerUpWord s.powerUps (chBuffer c) i)

def State.pcmoutAt (s : State) (i : Nat) : Pcm16 :=
  (lookupCell s.mem.pcmout i).getD (Config.powerUpHalf s.powerUps .pcmout i)

/-- The elements 0 to n - 1 that `f` reads, in ascending order (20_memory.md R48). -/
def elements {α : Type} (f : Nat → α) (n : Nat) : List α := (List.range n).map f

/-! ## Completion of a command (R220) -/

/-- `complete(code, word0)`: RESULT always; the sticky flag and ERRWORD on a non-zero code. The model's counter moves on, so
that the next command's NaNs are its own (log 5). -/
def State.complete (s : State) (code : ResultCode) (word0 : Word) : State :=
  if code = .ok then
    { s with result := code.word, freeTick := s.freeTick + 1 }
  else
    { s with
      result := code.word
      status := s.status ||| code.flag
      errword := word0
      freeTick := s.freeTick + 1 }

/-- STATUS and ERRWORD cleared (48_system.md R201, R202). -/
def State.clearRecord (s : State) : State := { s with status := 0#32, errword := 0#32 }

/-! ## The life of a chain (R121, R122, R125) -/

/-- CHAINc.STATE <- FAILED, kept although the command raises (R125). -/
def State.failChain (s : State) (c : Channel) : State :=
  s.setChain c { s.chain c with phase := .failed }

/-- Teardown of one channel's chain: every slot EMPTY, every DLY[c][k] gone, NFILT = 0, OPEN (R122). -/
def State.clearChain (s : State) (c : Channel) : State :=
  (s.setChain c Chain.initial).setDelays c []

/-- `cfg_begin` (R125): ChainState unless the chain is OPEN; ChainFull, and the chain FAILED, when NFILT = NSLOT; else the
rest of the command runs with the slot to build. -/
def State.cfgBegin (s : State) (c : Channel) (word0 : Word) (build : Nat → State) : State :=
  if (s.chain c).phase ≠ .opened then s.complete .chainState word0
  else if (s.chain c).nfilt = s.nslot then (s.failChain c).complete .chainFull word0
  else build (s.chain c).nfilt.toNat

/-- `cfg_fail` (R125): the command's own validation failed. -/
def State.cfgFail (s : State) (c : Channel) (word0 : Word) : State :=
  (s.failChain c).complete .invalidParameter word0

/-- `cfg_commit` (R125): the slot with the fields its kind uses, all others zero, and NFILT raised. The slot's delay memory,
where its kind has one, is created all zero (R29, R140): no element of it is listed. -/
def State.cfgCommit (s : State) (c : Channel) (k : Nat) (r : Slot) : State :=
  let built := (s.setSlot c k r).setRing c k []
  built.setChain c { built.chain c with nfilt := BitVec.ofNat 8 (k + 1) }

end Machine
end Sys2Proof
end

