-- ==== Sys2Proof/Machine/BiquadCoefficients.lean ====
section
/-! DEFINITION. The biquad coefficient unit: the eight CFG.BQ instructions (46_biquad_coefficients.md). Every `f64` operation
is rounded once, in the nesting the rules show (40_numerics.md R86); `free n` is the free value behind the NaN that the
operation numbered `n` of the command may deliver (log 5). -/

namespace Sys2Proof
namespace Machine

/-- The free NaN bits of the operations of a CFG command, by their number. -/
def State.configFree (s : State) : Nat → BitVec 64 := Config.nanBits s.freeTick 0 0

/-! ## Intermediates -/

/-- A, cos ω0, sin ω0 and α (R161, R162). -/
structure BiquadTerms where
  a : F64
  cs : F64
  sn : F64
  al : F64
  deriving DecidableEq, Repr

/-- A = F_POW(10, GAIN_DB / 40) (R161). -/
def gainTerm (free : Nat → BitVec 64) (gainDb : F64) : F64 :=
  fPow ten64 (f64Div (free 0) gainDb forty64)

/-- ω0 = ((2 π) F0) / RATE (R161). -/
def omegaTerm (free : Nat → BitVec 64) (rate f0 : F64) : F64 :=
  f64Div (free 3) (f64Mul (free 2) (f64Mul (free 1) two64 piF64) f0) rate

/-- α from Q: sn / (2 Q) (R162). -/
def alphaOfQ (free : Nat → BitVec 64) (sn q : F64) : F64 :=
  f64Div (free 5) sn (f64Mul (free 4) two64 q)

/-- α from a bandwidth in octaves, the formula kept as the source gives it (R162, U5): t = F_POW(2, BW),
q = sqrt(t) / (t - 1), α = sn / (2 q). -/
def alphaOfBandwidth (free : Nat → BitVec 64) (sn bw : F64) : F64 :=
  let t := fPow two64 bw
  let q := f64Div (free 8) (f64Sqrt (free 6) t) (f64Sub (free 7) t one64)
  f64Div (free 10) sn (f64Mul (free 9) two64 q)

/-- α from a slope: (sn / 2) sqrt(((A + 1/A) (1/S - 1)) + 2) (R162). -/
def alphaOfSlope (free : Nat → BitVec 64) (sn a slope : F64) : F64 :=
  let sum := f64Add (free 13) a (f64Div (free 12) one64 a)
  let excess := f64Sub (free 15) (f64Div (free 14) one64 slope) one64
  let radicand := f64Add (free 17) (f64Mul (free 16) sum excess) two64
  f64Mul (free 19) (f64Div (free 11) sn two64) (f64Sqrt (free 18) radicand)

/-- α by PKIND (R162). A reserved kind never comes here: R160 has rejected it; the arm takes the Q formula. -/
def alphaTerm (free : Nat → BitVec 64) (pkind : ParamKind) (sn a param : F64) : F64 :=
  match pkind with
  | .q => alphaOfQ free sn param
  | .bandwidth => alphaOfBandwidth free sn param
  | .slope => alphaOfSlope free sn a param
  | .reserved _ => alphaOfQ free sn param

/-- The intermediates of R161 and R162. A is computed for every type. -/
def biquadTerms (free : Nat → BitVec 64) (pkind : ParamKind) (ops : BiquadOperands) : BiquadTerms :=
  let a := gainTerm free ops.gainDb
  let w0 := omegaTerm free ops.rate ops.f0
  let cs := fCos w0
  let sn := fSin w0
  ⟨a, cs, sn, alphaTerm free pkind sn a ops.param⟩

/-! ## The formula sets -/

/-- The six raw coefficients. -/
structure RawCoefficients where
  b0 : F64
  b1 : F64
  b2 : F64
  a0 : F64
  a1 : F64
  a2 : F64
  deriving DecidableEq, Repr

/-- a0 = 1 + α, of the first five types. -/
def denominator0 (free : Nat → BitVec 64) (t : BiquadTerms) : F64 := f64Add (free 30) one64 t.al

/-- -(2 cos ω0), of the first six types. -/
def minusTwoCos (free : Nat → BitVec 64) (t : BiquadTerms) : F64 := f64Neg (f64Mul (free 31) two64 t.cs)

/-- a2 = 1 - α, of the first five types. -/
def denominator2 (free : Nat → BitVec 64) (t : BiquadTerms) : F64 := f64Sub (free 32) one64 t.al

/-- LowPass (R164): t = 1 - cos ω0. -/
def lowPassRaw (free : Nat → BitVec 64) (t : BiquadTerms) : RawCoefficients :=
  let n := f64Sub (free 20) one64 t.cs
  { b0 := f64Div (free 21) n two64
    b1 := n
    b2 := f64Div (free 22) n two64
    a0 := denominator0 free t
    a1 := minusTwoCos free t
    a2 := denominator2 free t }

/-- HighPass (R165): t = 1 + cos ω0. -/
def highPassRaw (free : Nat → BitVec 64) (t : BiquadTerms) : RawCoefficients :=
  let n := f64Add (free 20) one64 t.cs
  { b0 := f64Div (free 21) n two64
    b1 := f64Neg n
    b2 := f64Div (free 22) n two64
    a0 := denominator0 free t
    a1 := minusTwoCos free t
    a2 := denominator2 free t }

/-- BandPass, constant 0 dB peak gain (R166). -/
def bandPassRaw (free : Nat → BitVec 64) (t : BiquadTerms) : RawCoefficients :=
  { b0 := t.al
    b1 := zero64
    b2 := f64Neg t.al
    a0 := denominator0 free t
    a1 := minusTwoCos free t
    a2 := denominator2 free t }

/-- Notch (R167). b1 and a1 are two operations of the pseudocode, each with its own free NaN. -/
def notchRaw (free : Nat → BitVec 64) (t : BiquadTerms) : RawCoefficients :=
  { b0 := one64
    b1 := f64Neg (f64Mul (free 20) two64 t.cs)
    b2 := one64
    a0 := denominator0 free t
    a1 := minusTwoCos free t
    a2 := denominator2 free t }

/-- AudioPeak, constant skirt gain (R168): h = sin ω0 / 2. -/
def audioPeakRaw (free : Nat → BitVec 64) (t : BiquadTerms) : RawCoefficients :=
  let h := f64Div (free 20) t.sn two64
  { b0 := h
    b1 := zero64
    b2 := f64Neg h
    a0 := denominator0 free t
    a1 := minusTwoCos free t
    a2 := denominator2 free t }

/-- PeakingEQ (R169). -/
def peakingEqRaw (free : Nat → BitVec 64) (t : BiquadTerms) : RawCoefficients :=
  { b0 := f64Add (free 21) one64 (f64Mul (free 20) t.al t.a)
    b1 := f64Neg (f64Mul (free 22) two64 t.cs)
    b2 := f64Sub (free 24) one64 (f64Mul (free 23) t.al t.a)
    a0 := f64Add (free 26) one64 (f64Div (free 25) t.al t.a)
    a1 := minusTwoCos free t
    a2 := f64Sub (free 28) one64 (f64Div (free 27) t.al t.a) }

/-- The common terms of the two shelves (R170): r = (2 sqrt A) α, p = A + 1, m = A - 1, u = p - m cos ω0,
v = p + m cos ω0. -/
structure ShelfTerms where
  r : F64
  p : F64
  m : F64
  u : F64
  v : F64
  deriving DecidableEq, Repr

/-- r, p, m, u, v (R170). -/
def shelfTerms (free : Nat → BitVec 64) (t : BiquadTerms) : ShelfTerms :=
  let p := f64Add (free 23) t.a one64
  let m := f64Sub (free 24) t.a one64
  { r := f64Mul (free 22) (f64Mul (free 21) two64 (f64Sqrt (free 20) t.a)) t.al
    p := p
    m := m
    u := f64Sub (free 26) p (f64Mul (free 25) m t.cs)
    v := f64Add (free 28) p (f64Mul (free 27) m t.cs) }

/-- LowShelf (R170). -/
def lowShelfRaw (free : Nat → BitVec 64) (t : BiquadTerms) : RawCoefficients :=
  let h := shelfTerms free t
  { b0 := f64Mul (free 34) t.a (f64Add (free 33) h.u h.r)
    b1 := f64Mul (free 38) (f64Mul (free 35) two64 t.a) (f64Sub (free 37) h.m (f64Mul (free 36) h.p t.cs))
    b2 := f64Mul (free 40) t.a (f64Sub (free 39) h.u h.r)
    a0 := f64Add (free 41) h.v h.r
    a1 := f64Neg (f64Mul (free 44) two64 (f64Add (free 43) h.m (f64Mul (free 42) h.p t.cs)))
    a2 := f64Sub (free 45) h.v h.r }

/-- HighShelf (R171). -/
def highShelfRaw (free : Nat → BitVec 64) (t : BiquadTerms) : RawCoefficients :=
  let h := shelfTerms free t
  { b0 := f64Mul (free 34) t.a (f64Add (free 33) h.v h.r)
    b1 := f64Neg
      (f64Mul (free 38) (f64Mul (free 35) two64 t.a) (f64Add (free 37) h.m (f64Mul (free 36) h.p t.cs)))
    b2 := f64Mul (free 40) t.a (f64Sub (free 39) h.v h.r)
    a0 := f64Add (free 41) h.u h.r
    a1 := f64Mul (free 44) two64 (f64Sub (free 43) h.m (f64Mul (free 42) h.p t.cs))
    a2 := f64Sub (free 45) h.u h.r }

/-! ## Normalisation and commit (R163) -/

/-- A biquad slot at construction: the six raw coefficients, the five ratios to a0, histories +0.0 (R163). -/
def biquadSlot (free : Nat → BitVec 64) (type : ResponseType) (pkind : ParamKind) (raw : RawCoefficients) : Slot :=
  { Slot.empty with
    kind := biquadKind type pkind
    b0 := raw.b0
    b1 := raw.b1
    b2 := raw.b2
    a0 := raw.a0
    a1 := raw.a1
    a2 := raw.a2
    n0 := f64Div (free 50) raw.b0 raw.a0
    n1 := f64Div (free 51) raw.b1 raw.a0
    n2 := f64Div (free 52) raw.b2 raw.a0
    n3 := f64Div (free 53) raw.a1 raw.a0
    n4 := f64Div (free 54) raw.a2 raw.a0 }

/-- What the eight instructions share: the opening of R160, the intermediates, the type's formula set, the close of R163.
The computed values are not inspected (R172). -/
def State.configureBiquad (s : State) (type : ResponseType)
    (formulas : (Nat → BitVec 64) → BiquadTerms → RawCoefficients)
    (c : Channel) (pkind : ParamKind) (ops : BiquadOperands) (word0 : Word) : State :=
  s.cfgBegin c word0 (fun k =>
    if biquadOperandsValid type pkind ops then
      let free := s.configFree
      (s.cfgCommit c k (biquadSlot free type pkind (formulas free (biquadTerms free pkind ops)))).complete .ok word0
    else s.cfgFail c word0)

/-! ## The eight instructions -/

/-- CFG.BQ.LP (R164). -/
def execCfgBqLp (c : Channel) (pkind : ParamKind) (ops : BiquadOperands) (s : State) :
    Host.Outcome State Fault Refusal :=
  .next (s.configureBiquad .lowPass lowPassRaw c pkind ops (Instr.cfgBqLp c pkind ops).word0)

/-- CFG.BQ.HP (R165). -/
def execCfgBqHp (c : Channel) (pkind : ParamKind) (ops : BiquadOperands) (s : State) :
    Host.Outcome State Fault Refusal :=
  .next (s.configureBiquad .highPass highPassRaw c pkind ops (Instr.cfgBqHp c pkind ops).word0)

/-- CFG.BQ.BP (R166). -/
def execCfgBqBp (c : Channel) (pkind : ParamKind) (ops : BiquadOperands) (s : State) :
    Host.Outcome State Fault Refusal :=
  .next (s.configureBiquad .bandPass bandPassRaw c pkind ops (Instr.cfgBqBp c pkind ops).word0)

/-- CFG.BQ.NOTCH (R167). -/
def execCfgBqNotch (c : Channel) (pkind : ParamKind) (ops : BiquadOperands) (s : State) :
    Host.Outcome State Fault Refusal :=
  .next (s.configureBiquad .notch notchRaw c pkind ops (Instr.cfgBqNotch c pkind ops).word0)

/-- CFG.BQ.APK (R168). -/
def execCfgBqApk (c : Channel) (pkind : ParamKind) (ops : BiquadOperands) (s : State) :
    Host.Outcome State Fault Refusal :=
  .next (s.configureBiquad .audioPeak audioPeakRaw c pkind ops (Instr.cfgBqApk c pkind ops).word0)

/-- CFG.BQ.PEQ (R169). -/
def execCfgBqPeq (c : Channel) (pkind : ParamKind) (ops : BiquadOperands) (s : State) :
    Host.Outcome State Fault Refusal :=
  .next (s.configureBiquad .peakingEq peakingEqRaw c pkind ops (Instr.cfgBqPeq c pkind ops).word0)

/-- CFG.BQ.LS (R170). -/
def execCfgBqLs (c : Channel) (pkind : ParamKind) (ops : BiquadOperands) (s : State) :
    Host.Outcome State Fault Refusal :=
  .next (s.configureBiquad .lowShelf lowShelfRaw c pkind ops (Instr.cfgBqLs c pkind ops).word0)

/-- CFG.BQ.HS (R171). -/
def execCfgBqHs (c : Channel) (pkind : ParamKind) (ops : BiquadOperands) (s : State) :
    Host.Outcome State Fault Refusal :=
  .next (s.configureBiquad .highShelf highShelfRaw c pkind ops (Instr.cfgBqHs c pkind ops).word0)

end Machine
end Sys2Proof
end

