-- ==== Sys2Proof/Machine/Codec.lean ====
section
/-! DEFINITION. The sample codec: DECODE and ENCODE (41_sample_codec.md). -/

namespace Sys2Proof
namespace Machine

/-- `decode1` (R100). No result is a NaN, so no free value is ever delivered. -/
def decode1 (x : Pcm16) : F32 :=
  if x.toInt < 0 then f32Div 0#64 (f32OfI16 x) f32Const32768
  else f32Div 0#64 (f32OfI16 x) f32Const32767

/-- `encode1` (R102): the product is rounded to binary32, then saturated and truncated; a NaN is 0. The product of a
sample that is no NaN and a finite constant other than zero is no NaN, so no free value is ever delivered. -/
def encode1 (s : F32) : Pcm16 :=
  if isNaN32 s then 0#16
  else if f32IsNegative s then sat16Trunc (value32 (f32Mul 0#64 s f32Const32768))
  else sat16Trunc (value32 (f32Mul 0#64 s f32Const32767))

/-- DECODE (R101). -/
def execDecode (s : State) : Host.Outcome State Fault Refusal :=
  let n := s.lenIn.toNat
  if 2 * s.maxf < n then .next (s.complete .badLength Instr.decode.word0)
  else
    let samples := (elements s.pcminAt n).map decode1
    .next (({ s with mem := { s.mem with ilv := storeFrom s.mem.ilv 0 samples }
                     lenIlv := s.lenIn } : State).complete .ok Instr.decode.word0)

/-- ENCODE (R103). -/
def execEncode (s : State) : Host.Outcome State Fault Refusal :=
  let n := s.lenIlv.toNat
  if 2 * s.maxf < n then .next (s.complete .badLength Instr.encode.word0)
  else
    let pcm := (elements s.ilvAt n).map encode1
    .next (({ s with mem := { s.mem with pcmout := storeFrom s.mem.pcmout 0 pcm }
                     lenOut := s.lenIlv } : State).complete .ok Instr.encode.word0)

end Machine
end Sys2Proof
end

