-- ==== Sys2Proof/Machine/Biquad.lean ====
section
/-! DEFINITION. The biquad filter: the BIQUAD step of APPLY (47_biquad_filter.md). -/

namespace Sys2Proof
namespace Machine

/-- y[n] of the recurrence, binary64, the five terms combined from left to right, each product and each sum rounded once
(R191). `free` numbers the operations of the step. -/
def biquadOutput (free : Nat → BitVec 64) (r : Slot) (x : F64) : F64 :=
  f64Sub (free 9)
    (f64Sub (free 7)
      (f64Add (free 5)
        (f64Add (free 3) (f64Mul (free 1) r.n0 x) (f64Mul (free 2) r.n1 r.x1))
        (f64Mul (free 4) r.n2 r.x2))
      (f64Mul (free 6) r.n3 r.y1))
    (f64Mul (free 8) r.n4 r.y2)

/-- `step_BIQUAD` (R191): the output rounded to f32; the histories shifted, Y1 taking the binary64 value. -/
def stepBiquad (free : Nat → BitVec 64) (r : Slot) (s : F32) : F32 × Slot :=
  let x := f64OfF32 (free 0) s
  let y := biquadOutput free r x
  (f32OfF64 (free 10) y, { r with x2 := r.x1, x1 := x, y2 := r.y1, y1 := y })

end Machine
end Sys2Proof
end

