-- ==== Sys2Proof/Machine/Delay.lean ====
section
/-! DEFINITION. The delay line: CFG.DLYT, CFG.DLYM and the DELAY step of APPLY (44_delay_line.md). -/

namespace Sys2Proof
namespace Machine

/-- A delay slot at construction: KIND, TAPS, HEAD = 0, every other field zero (R140, 10_state.md R28). -/
def delaySlot (taps : Nat) (clamped : Bool) : Slot :=
  { Slot.empty with kind := delayKind clamped, taps := BitVec.ofNat 64 taps }

/-- What both constructors do with the tap count they were given (R140, R141, R142): the clamp completes with the warning,
the slot built all the same (60_exceptions.md R214). -/
def State.buildDelay (s : State) (c : Channel) (k n : Nat) (word0 : Word) : State :=
  let t := coerceTaps n
  (s.cfgCommit c k (delaySlot t.1 t.2)).complete (if t.2 then .resourceLimitExceeded else .ok) word0

/-- CFG.DLYT (R140). -/
def execCfgDlyt (c : Channel) (taps : Word) (s : State) : Host.Outcome State Fault Refusal :=
  let word0 := (Instr.cfgDlyt c taps).word0
  .next (s.cfgBegin c word0 (fun k => s.buildDelay c k taps.toNat word0))

/-- CFG.DLYM (R141): SAMPLE_RATE = 0 is InvalidParameter, whatever DELAY_MS is. -/
def execCfgDlym (c : Channel) (delayMs sampleRate : Word) (s : State) : Host.Outcome State Fault Refusal :=
  let word0 := (Instr.cfgDlym c delayMs sampleRate).word0
  .next (s.cfgBegin c word0 (fun k =>
    if sampleRate = 0#32 then s.cfgFail c word0
    else s.buildDelay c k (tapsOfDelay delayMs sampleRate) word0))

/-- `step_DELAY` (R143) on the slot's fields and its delay memory: the oldest sample goes out, the new one takes its place,
HEAD advances modulo T. -/
def stepDelay (r : Slot) (ring : Cells 32) (s : F32) : F32 × Slot × Cells 32 :=
  (readOr 0#32 ring r.head.toNat,
   { r with head := BitVec.ofNat 64 ((r.head.toNat + 1) % r.taps.toNat) },
   storeOr 0#32 ring r.head.toNat s)

end Machine
end Sys2Proof
end

