-- ==== Sys2Proof/Machine/Volume.lean ====
section
/-! DEFINITION. The gain stage: CFG.VOL and the VOLUME step of APPLY (45_volume_gain.md). -/

namespace Sys2Proof
namespace Machine

/-- A volume slot at construction: KIND and GAIN, the operand word bit for bit (R150, 10_state.md R25). -/
def volumeSlot (gain : F32) : Slot :=
  { Slot.empty with kind := volumeKind, gain := gain.setWidth 64 }

/-- CFG.VOL (R150): a reserved CURVE is InvalidParameter; no GAIN is an error. -/
def execCfgVol (c : Channel) (curve : Curve) (gain : F32) (s : State) : Host.Outcome State Fault Refusal :=
  let word0 := (Instr.cfgVol c curve gain).word0
  .next (s.cfgBegin c word0 (fun k =>
    if curve ≠ .linear then s.cfgFail c word0
    else (s.cfgCommit c k (volumeSlot gain)).complete .ok word0))

/-- `step_VOLUME` (R151): one binary32 multiplication by the GAIN of the slot's low 32 bits (10_state.md R22). -/
def stepVolume (free : Nat → BitVec 64) (r : Slot) (s : F32) : F32 :=
  f32Mul (free 0) s (r.gain.setWidth 32)

end Machine
end Sys2Proof
end

