-- ==== Sys2Proof/Machine/FilterChain.lean ====
section
/-! DEFINITION. The filter chain: CH.CLEAR, CH.ACT, APPLY (43_filter_chain.md). -/

namespace Sys2Proof
namespace Machine

/-- CH.CLEAR (R122): accepted in every chain state. -/
def execChClear (c : Channel) (s : State) : Host.Outcome State Fault Refusal :=
  .next ((s.clearChain c).complete .ok (Instr.chClear c).word0)

/-- CH.ACT (R123): ChainState when the chain is FAILED. -/
def execChAct (c : Channel) (s : State) : Host.Outcome State Fault Refusal :=
  let word0 := (Instr.chAct c).word0
  if (s.chain c).phase = .failed then .next (s.complete .chainState word0)
  else .next ((s.setChain c { s.chain c with phase := .active }).complete .ok word0)

/-- What a step reads and writes besides the sample: the slot's fields and its delay memory (R120). -/
abbrev FilterState := Slot × Cells 32

/-- KIND[1:0] (10_state.md R23). -/
def Slot.kindCode (r : Slot) : Nat := (r.kind.extractLsb' 0 2).toNat

/-- One sample through the filter of a slot, by KIND[1:0] (R124). There is no arm for an EMPTY slot in R124: a slot below
NFILT is never EMPTY. In a state that no run reaches the output is a free value and the slot stays as it is (log 8). -/
def stepFilter (free : Nat → BitVec 64) (st : FilterState) (s : F32) : F32 × FilterState :=
  match st.1.kindCode with
  | 1 => stepDelay st.1 st.2 s
  | 2 => (stepVolume free st.1 s, st)
  | 3 => ((stepBiquad free st.1 s).1, (stepBiquad free st.1 s).2, st.2)
  | _ => ((free 0).setWidth 32, st)

/-- A filter's `apply` over a buffer: the step on each element in ascending order, each finding the state the one before
left (R120). `free i` numbers the operations of sample `i`. -/
def runFilter (free : Nat → Nat → BitVec 64) : Nat → FilterState → List F32 → List F32 × FilterState
  | _, st, [] => ([], st)
  | i, st, x :: xs =>
    ((stepFilter (free i) st x).1 :: (runFilter free (i + 1) (stepFilter (free i) st x).2 xs).1,
     (runFilter free (i + 1) (stepFilter (free i) st x).2 xs).2)

/-- One pass of APPLY: slot `k` of channel `c` over the `n` elements of its buffer, in place (R124). -/
def State.applySlot (c : Channel) (n : Nat) (s : State) (k : Nat) : State :=
  let pass := runFilter (Config.nanBits s.freeTick k) 0 (s.slot c k, s.ring c k) (elements (s.chAt c) n)
  ((s.setChCells c (storeFrom (s.chCells c) 0 pass.1)).setSlot c k pass.2.1).setRing c k pass.2.2

/-- All passes of APPLY: the slots 0 to NFILT - 1 in ascending order (R124). -/
def State.applyChain (s : State) (c : Channel) : State :=
  (List.range (s.chain c).nfilt.toNat).foldl (State.applySlot c (s.lenCh c).toNat) s

/-- APPLY (R124): ChainState is tested before BadLength (60_exceptions.md R219). -/
def execApply (c : Channel) (s : State) : Host.Outcome State Fault Refusal :=
  let word0 := (Instr.apply c).word0
  if (s.chain c).phase ≠ .active then .next (s.complete .chainState word0)
  else if s.maxf < (s.lenCh c).toNat then .next (s.complete .badLength word0)
  else .next ((s.applyChain c).complete .ok word0)

end Machine
end Sys2Proof
end

