-- ==== Sys2Proof/Machine/Interleaver.lean ====
section
/-! DEFINITION. The channel interleaver and deinterleaver: SPLIT and MERGE (42_channel_interleaver.md). Elements are moved
as 32 bits, unchanged. -/

namespace Sys2Proof
namespace Machine

/-- The interleaved order: `a 0`, `b 0`, `a 1`, `b 1`, … (R111). -/
def interleave {α : Type} (a b : Nat → α) (i : Nat) : α := if i % 2 = 0 then a (i / 2) else b (i / 2)

/-- SPLIT (R110): even indices to CH0, odd ones to CH1; ceil(L/2) and floor(L/2) elements. -/
def execSplit (s : State) : Host.Outcome State Fault Refusal :=
  let n := s.lenIlv.toNat
  if 2 * s.maxf < n then .next (s.complete .badLength Instr.split.word0)
  else
    let evens := elements (fun j => s.ilvAt (2 * j)) ((n + 1) / 2)
    let odds := elements (fun j => s.ilvAt (2 * j + 1)) (n / 2)
    .next (({ s with mem := { s.mem with ch0 := storeFrom s.mem.ch0 0 evens
                                         ch1 := storeFrom s.mem.ch1 0 odds }
                     lenCh0 := BitVec.ofNat 32 ((n + 1) / 2)
                     lenCh1 := BitVec.ofNat 32 (n / 2) } : State).complete .ok Instr.split.word0)

/-- MERGE (R111): BadLength is tested first, then LengthMismatch (60_exceptions.md R219). -/
def execMerge (s : State) : Host.Outcome State Fault Refusal :=
  let la := s.lenCh0.toNat
  let lb := s.lenCh1.toNat
  if s.maxf < la ∨ s.maxf < lb then .next (s.complete .badLength Instr.merge.word0)
  else if la ≠ lb then .next (s.complete .lengthMismatch Instr.merge.word0)
  else
    let frames := elements (interleave (s.chAt .ch0) (s.chAt .ch1)) (2 * la)
    .next (({ s with mem := { s.mem with ilv := storeFrom s.mem.ilv 0 frames }
                     lenIlv := BitVec.ofNat 32 (2 * la) } : State).complete .ok Instr.merge.word0)

end Machine
end Sys2Proof
end

