-- ==== Sys2Proof/Machine/System.lean ====
section
/-! DEFINITION. The system commands NOP, CLRST, SRST (48_system.md) and the reset they share with the external reset input
(70_reset_and_hazards.md R240, R241). -/

namespace Sys2Proof
namespace Machine

/-- The reset that is not a power-up: every register but the constants at its reset value, both chains OPEN and empty, no
delay memory; the buffer memories keep what they hold (10_state.md R32, R241). RESULT is 0 too. -/
def State.warmReset (s : State) : State :=
  { s with
    status := 0#32
    result := 0#32
    errword := 0#32
    lenIn := 0#32
    lenIlv := 0#32
    lenCh0 := 0#32
    lenCh1 := 0#32
    lenOut := 0#32
    chain0 := Chain.initial
    chain1 := Chain.initial
    mem := { s.mem with dly0 := [], dly1 := [] } }

/-- The reset at power-up: the buffer memories hold unspecified contents besides (R32, U1). The host's list, its answers and
the capacities are not the block's to lose (log 9). -/
def State.powerUpReset (s : State) : State :=
  { s.warmReset with mem := Memory.unwritten, powerUps := s.powerUps + 1 }

/-- A buffer memory in which a command writes `n` elements. -/
def writing (b : Buffer) (n : Nat) : List Buffer := if n = 0 then [] else [b]

/-- The buffer memories that a command writes in this state (10_state.md R30): none when it ends with an error, because
every error is raised before the first write (60_exceptions.md R220), and none in which it has no element to write. -/
def State.buffersWritten (s : State) : Instr → List Buffer
  | .decode => if 2 * s.maxf < s.lenIn.toNat then [] else writing .ilv s.lenIn.toNat
  | .encode => if 2 * s.maxf < s.lenIlv.toNat then [] else writing .pcmout s.lenIlv.toNat
  | .split =>
    if 2 * s.maxf < s.lenIlv.toNat then []
    else writing .ch0 ((s.lenIlv.toNat + 1) / 2) ++ writing .ch1 (s.lenIlv.toNat / 2)
  | .merge =>
    if s.maxf < s.lenCh0.toNat ∨ s.maxf < s.lenCh1.toNat ∨ s.lenCh0 ≠ s.lenCh1 then []
    else writing .ilv (2 * s.lenCh0.toNat)
  | .apply c =>
    if (s.chain c).phase ≠ .active ∨ s.maxf < (s.lenCh c).toNat ∨ (s.chain c).nfilt = 0#8 then []
    else writing (chBuffer c) (s.lenCh c).toNat
  | .nop => []
  | .clrst => []
  | .srst => []
  | .chClear _ => []
  | .chAct _ => []
  | .cfgDlyt _ _ => []
  | .cfgDlym _ _ _ => []
  | .cfgVol _ _ _ => []
  | .cfgBqLp _ _ _ => []
  | .cfgBqHp _ _ _ => []
  | .cfgBqBp _ _ _ => []
  | .cfgBqNotch _ _ _ => []
  | .cfgBqApk _ _ _ => []
  | .cfgBqPeq _ _ _ => []
  | .cfgBqLs _ _ _ => []
  | .cfgBqHs _ _ _ => []

/-- One buffer memory filled with unspecified contents: free values, written over its whole capacity (log 9). -/
def State.scramble (s : State) : Buffer → State
  | .pcmin => s
  | .ilv => { s with mem := { s.mem with
      ilv := storeFrom s.mem.ilv 0 (elements (Config.abandonedWord s.freeTick .ilv) (2 * s.maxf)) } }
  | .ch0 => { s with mem := { s.mem with
      ch0 := storeFrom s.mem.ch0 0 (elements (Config.abandonedWord s.freeTick .ch0) s.maxf) } }
  | .ch1 => { s with mem := { s.mem with
      ch1 := storeFrom s.mem.ch1 0 (elements (Config.abandonedWord s.freeTick .ch1) s.maxf) } }
  | .pcmout => { s with mem := { s.mem with
      pcmout := storeFrom s.mem.pcmout 0 (elements (Config.abandonedHalf s.freeTick .pcmout) (2 * s.maxf)) } }

/-- A reset that cuts the instruction short: the command is abandoned, the buffer memory it was writing holds unspecified
contents, and everything else is as after any reset (R240, R241; 93_implementation_defined.md U1). A command that would have
ended with an error was writing none, and the buffer memories stay. -/
def State.abandon (s : State) (i : Instr) : State :=
  { ((s.buffersWritten i).foldl State.scramble s).warmReset with freeTick := s.freeTick + 1 }

/-- NOP (R200): completes with code 0. -/
def execNop (s : State) : Host.Outcome State Fault Refusal :=
  .next (s.complete .ok Instr.nop.word0)

/-- CLRST (R201): the record cleared, then completion with code 0. -/
def execClrst (s : State) : Host.Outcome State Fault Refusal :=
  .next (s.clearRecord.complete .ok Instr.clrst.word0)

/-- SRST (R202): the reset that keeps the buffer memories, then completion with code 0. -/
def execSrst (s : State) : Host.Outcome State Fault Refusal :=
  .next (s.warmReset.complete .ok Instr.srst.word0)

end Machine
end Sys2Proof
end

