-- ==== Sys2Proof/Machine/Dispatch.lean ====
section
/-! DEFINITION. One arm per instruction: the meaning each has. -/

namespace Sys2Proof
namespace Machine

def exec (i : Instr) (s : State) : Host.Outcome State Fault Refusal :=
  match i with
  | .nop => Sys2Proof.Machine.execNop s
  | .clrst => Sys2Proof.Machine.execClrst s
  | .srst => Sys2Proof.Machine.execSrst s
  | .decode => Sys2Proof.Machine.execDecode s
  | .encode => Sys2Proof.Machine.execEncode s
  | .split => Sys2Proof.Machine.execSplit s
  | .merge => Sys2Proof.Machine.execMerge s
  | .chClear c => Sys2Proof.Machine.execChClear c s
  | .chAct c => Sys2Proof.Machine.execChAct c s
  | .apply c => Sys2Proof.Machine.execApply c s
  | .cfgDlyt c taps => Sys2Proof.Machine.execCfgDlyt c taps s
  | .cfgDlym c delayMs sampleRate => Sys2Proof.Machine.execCfgDlym c delayMs sampleRate s
  | .cfgVol c curve gain => Sys2Proof.Machine.execCfgVol c curve gain s
  | .cfgBqLp c pkind ops => Sys2Proof.Machine.execCfgBqLp c pkind ops s
  | .cfgBqHp c pkind ops => Sys2Proof.Machine.execCfgBqHp c pkind ops s
  | .cfgBqBp c pkind ops => Sys2Proof.Machine.execCfgBqBp c pkind ops s
  | .cfgBqNotch c pkind ops => Sys2Proof.Machine.execCfgBqNotch c pkind ops s
  | .cfgBqApk c pkind ops => Sys2Proof.Machine.execCfgBqApk c pkind ops s
  | .cfgBqPeq c pkind ops => Sys2Proof.Machine.execCfgBqPeq c pkind ops s
  | .cfgBqLs c pkind ops => Sys2Proof.Machine.execCfgBqLs c pkind ops s
  | .cfgBqHs c pkind ops => Sys2Proof.Machine.execCfgBqHs c pkind ops s

end Machine
end Sys2Proof
end

