-- ==== Sys2Proof/Machine/HostPort.lean ====
section
/-! DEFINITION. The host's accesses to the spaces (20_memory.md R45, R46, R47; 10_state.md R11). -/

namespace Sys2Proof
namespace Machine

/-- REG:i, 0 for an index that does not exist (10_state.md R11, 20_memory.md R47). ID is the constant of R12. -/
def State.readReg (s : State) (i : Nat) : Word :=
  match i with
  | 0 => Config.idValue
  | 1 => s.cap
  | 2 => s.status
  | 3 => s.result
  | 4 => s.errword
  | 5 => s.lenIn
  | 6 => s.lenIlv
  | 7 => s.lenCh0
  | 8 => s.lenCh1
  | 9 => s.lenOut
  | 10 => s.chain0.word
  | 11 => s.chain1.word
  | _ => 0#32

/-- Field f of a slot, 0 above f = 18 (10_state.md R22, 20_memory.md R47). -/
def Slot.field (r : Slot) (f : Nat) : BitVec 64 :=
  match f with
  | 0 => r.kind
  | 1 => r.taps
  | 2 => r.head
  | 3 => r.gain
  | 4 => r.b0
  | 5 => r.b1
  | 6 => r.b2
  | 7 => r.a0
  | 8 => r.a1
  | 9 => r.a2
  | 10 => r.n0
  | 11 => r.n1
  | 12 => r.n2
  | 13 => r.n3
  | 14 => r.n4
  | 15 => r.x1
  | 16 => r.x2
  | 17 => r.y1
  | 18 => r.y2
  | _ => 0#64

/-- SLOT:(c, k, f), 0 when c > 1, k >= NSLOT or f > 18 (R22, R47). -/
def State.readSlot (s : State) (c k f : Nat) : BitVec 64 :=
  if s.nslot.toNat ≤ k then 0#64
  else match c with
  | 0 => (s.slot .ch0 k).field f
  | 1 => (s.slot .ch1 k).field f
  | _ => 0#64

/-- HostRead (R45): the element, or 0 of the element's width out of range (R47). The length registers do not limit it. -/
def State.hostRead (s : State) : HostAddr → HostValue
  | .reg i => .word (s.readReg i)
  | .slot c k f => .dword (s.readSlot c k f)
  | .pcmin i => .half (if i < 2 * s.maxf then s.pcminAt i else 0#16)
  | .ilv i => .word (if i < 2 * s.maxf then s.ilvAt i else 0#32)
  | .ch c i => .word (if i < s.maxf then s.chAt c i else 0#32)
  | .pcmout i => .half (if i < 2 * s.maxf then s.pcmoutAt i else 0#16)

/-- A host write to REG:i: the four RW length registers take any value, every other register ignores it (R11, R46). -/
def State.writeReg (s : State) (i : Nat) (v : Word) : State :=
  match i with
  | 5 => { s with lenIn := v }
  | 6 => { s with lenIlv := v }
  | 7 => { s with lenCh0 := v }
  | 8 => { s with lenCh1 := v }
  | _ => s

/-- HostWrite (R46): ignored for RO registers, SLOT, PCMOUT and out of range (R47). -/
def State.hostWrite (s : State) : HostWrite → State
  | .reg i v => s.writeReg i v
  | .slot _ _ _ _ => s
  | .pcmin i v =>
    if i < 2 * s.maxf then { s with mem := { s.mem with pcmin := storeCell s.mem.pcmin i v } } else s
  | .ilv i v =>
    if i < 2 * s.maxf then { s with mem := { s.mem with ilv := storeCell s.mem.ilv i v } } else s
  | .ch c i v => if i < s.maxf then s.setChCells c (storeCell (s.chCells c) i v) else s
  | .pcmout _ _ => s

/-- A HostRead served: the block's state is as before, the answer goes to the host (R45, log 2). -/
def State.answer (s : State) (a : HostAddr) : State :=
  { s with answers := s.answers ++ [(a, s.hostRead a)] }

end Machine
end Sys2Proof
end

