-- ==== Sys2Proof/Machine/Serve.lean ====
section
/-! DEFINITION. How the block serves one action of the host: a packet is decoded and executed whole, or it is illegal; host
accesses and resets fall between commands (00_scope.md R8, 20_memory.md R49, 60_exceptions.md R215). -/

namespace Sys2Proof
namespace Machine

/-- One command packet, from start to finish (R8). A packet that is no instruction raises IllegalCommand and has no other
effect (30_encoding.md R67, 60_exceptions.md R215). -/
def runPacket (word0 : Word) (operands : List Word) (s : State) : Host.Outcome State Fault Refusal :=
  match Sys2Proof.decode (word0 :: operands) with
  | .ok i => exec i s
  | .error _ => .next (s.complete .illegalCommand word0)

/-- A packet cut short by a reset (R240). One that is no instruction was writing nothing. -/
def cutShort (word0 : Word) (operands : List Word) (s : State) : State :=
  match Sys2Proof.decode (word0 :: operands) with
  | .ok i => s.abandon i
  | .error _ => s.warmReset

/-- One action of the host, taken from its list (70_reset_and_hazards.md R240, R255). -/
def serve (a : HostAction) (s : State) : Host.Outcome State Fault Refusal :=
  match a with
  | .packet word0 operands => runPacket word0 operands s
  | .read addr => .next (s.answer addr)
  | .write w => .next (s.hostWrite w)
  | .reset => .next s.warmReset
  | .resetDuring word0 operands => .next (cutShort word0 operands s)
  | .powerUp => .next s.powerUpReset

/-- With nothing to serve the block is idle and keeps all its state (60_exceptions.md R228). -/
def idle (s : State) : Host.Outcome State Fault Refusal := .next s

/-- The host's action that sends the packet with these words; words of no packet send nothing (R60). -/
def sendWords : List Word → List HostAction
  | [] => []
  | word0 :: operands => [.packet word0 operands]

/-- The host's action that sends an instruction's packet. -/
def sendInstr (i : Instr) : HostAction := .packet i.word0 i.operandWords

end Machine
end Sys2Proof
end

