-- ==== Sys2Proof/Machine/Step.lean ====
section
/-! DEFINITION. One step of the machine: the host's next action served, in the order the host issues them
(20_memory.md R49). The block fetches nothing (10_state.md R20): its packets arrive, so the place "where the next
instruction is fetched" is the head of the host's list (log 1). -/

namespace Sys2Proof
namespace Machine

/-- One action of the host, or an idle step. -/
def step (s : State) : Host.Outcome State Fault Refusal :=
  match s.inbox with
  | [] => idle s
  | a :: rest => serve a { s with inbox := rest }

/-- The packet with these bits put first in the host's list, so that the next step runs it. -/
def State.withFetchWord (s : State) (nbits w : Nat) : State :=
  { s with inbox := sendWords (packetOfTable nbits w) ++ s.inbox }

end Machine
end Sys2Proof
end

