-- ==== Sys2Proof/Machine/Assembler.lean ====
section
/-! DEFINITION. The assembler of 30_encoding.md R69 and its pseudo-instruction CYCLE (R70): the lines, what each
stands for, and how a line of text is read. No step of the machine reads this file. -/

namespace Sys2Proof
namespace Machine

/-- A real literal (R69): a decimal number as a quotient of integers, a bit pattern `bits:0x…`, `inf`, `-inf`, `nan`. -/
inductive RealLiteral where
  | decimal (neg : Bool) (num den : Nat)
  | bits (pattern : Nat)
  | infinity (neg : Bool)
  | nan
  deriving DecidableEq, Repr

/-- A number below `2 ^ w` as `w` bits; none outside that range (for a `bits:` pattern DESIGN CHOICE, log 13). -/
def fits (w n : Nat) : Option (BitVec w) := if n < 2 ^ w then some (BitVec.ofNat w n) else none

/-- The f32 a literal stands for: the nearest one, ties to even (R69). -/
def RealLiteral.toF32 : RealLiteral → Option F32
  | .decimal neg num den => if den = 0 then none else some (f32Literal neg num den)
  | .bits pattern => fits 32 pattern
  | .infinity neg => some (pack32 neg binary32.infMag)
  | .nan => some 0x7FC00000#32

/-- The f64 a literal stands for (R69). -/
def RealLiteral.toF64 : RealLiteral → Option F64
  | .decimal neg num den => if den = 0 then none else some (f64Literal neg num den)
  | .bits pattern => fits 64 pattern
  | .infinity neg => some (pack64 neg binary64.infMag)
  | .nan => some 0x7FF8000000000000#64

/-- `LINEAR`, or a number 0 to 15 (R69). -/
inductive CurveLiteral where
  | linear
  | number (n : Nat)
  deriving DecidableEq, Repr

def CurveLiteral.toCurve : CurveLiteral → Option Curve
  | .linear => some .linear
  | .number n => (fits 4 n).map curveOfBits

/-- `Q`, `BW`, `S`, or a number 0 to 15 (R69). -/
inductive KindLiteral where
  | q
  | bw
  | s
  | number (n : Nat)
  deriving DecidableEq, Repr

def KindLiteral.toParamKind : KindLiteral → Option ParamKind
  | .q => some .q
  | .bw => some .bandwidth
  | .s => some .slope
  | .number n => (fits 4 n).map paramKindOfBits

/-- The channel operand: 0 or 1 (R69). -/
def channelLiteral : Nat → Option Channel
  | 0 => some .ch0
  | 1 => some .ch1
  | _ => none

/-- One line: a mnemonic and its operands (R69), or the pseudo-instruction (R70). -/
inductive AsmLine where
  | nop
  | clrst
  | srst
  | decode
  | encode
  | split
  | merge
  | chClear (c : Nat)
  | chAct (c : Nat)
  | apply (c : Nat)
  | cfgDlyt (c taps : Nat)
  | cfgDlym (c delayMs sampleRate : Nat)
  | cfgVol (c : Nat) (curve : CurveLiteral) (gain : RealLiteral)
  | cfgBq (type : ResponseType) (c : Nat) (kind : KindLiteral) (rate f0 gainDb param : RealLiteral)
  | cycle
  deriving DecidableEq, Repr

/-- The CFG.BQ instruction of a response type (R66). -/
def biquadInstr : ResponseType → Channel → ParamKind → BiquadOperands → Instr
  | .lowPass => .cfgBqLp
  | .highPass => .cfgBqHp
  | .bandPass => .cfgBqBp
  | .notch => .cfgBqNotch
  | .audioPeak => .cfgBqApk
  | .peakingEq => .cfgBqPeq
  | .lowShelf => .cfgBqLs
  | .highShelf => .cfgBqHs

/-- The instructions a line stands for; none when an operand is outside its range. -/
def assemble : AsmLine → Option (List Instr)
  | .nop => some [.nop]
  | .clrst => some [.clrst]
  | .srst => some [.srst]
  | .decode => some [.decode]
  | .encode => some [.encode]
  | .split => some [.split]
  | .merge => some [.merge]
  | .chClear c => do return [.chClear (← channelLiteral c)]
  | .chAct c => do return [.chAct (← channelLiteral c)]
  | .apply c => do return [.apply (← channelLiteral c)]
  | .cfgDlyt c taps => do return [.cfgDlyt (← channelLiteral c) (← fits 32 taps)]
  | .cfgDlym c delayMs sampleRate => do
    return [.cfgDlym (← channelLiteral c) (← fits 32 delayMs) (← fits 32 sampleRate)]
  | .cfgVol c curve gain => do return [.cfgVol (← channelLiteral c) (← curve.toCurve) (← gain.toF32)]
  | .cfgBq type c kind rate f0 gainDb param => do
    return [biquadInstr type (← channelLiteral c) (← kind.toParamKind)
      ⟨← rate.toF64, ← f0.toF64, ← gainDb.toF64, ← param.toF64⟩]
  | .cycle => some cycle

/-- The packets a line stands for, in the order they are sent. -/
def packetsOf (line : AsmLine) : Option (List (List Word)) := (assemble line).map (fun l => l.map encode)

/-! ## Reading a line of text (R69)

What the syntax leaves unsaid is the model's DESIGN CHOICE, point by point in log 13: blanks, leading zeros, hexadecimal
integers, the forms of a decimal, a pattern wider than its format. -/

def isBlank (ch : Char) : Bool := ch = ' ' || ch = '\t'

def trim (l : List Char) : List Char := ((l.dropWhile isBlank).reverse.dropWhile isBlank).reverse

/-- The parts of a list between the separators `sep`; at least one. -/
def splitAt (sep : Char) : List Char → List (List Char)
  | [] => [[]]
  | ch :: rest =>
    match splitAt sep rest with
    | [] => [[ch]]
    | part :: parts => if ch = sep then [] :: part :: parts else (ch :: part) :: parts

/-- The value of a digit in a base up to 16. -/
def digitValue (base : Nat) (ch : Char) : Option Nat :=
  let n := ch.toNat
  let v := if 48 ≤ n ∧ n ≤ 57 then n - 48 else if 65 ≤ n ∧ n ≤ 70 then n - 55 else if 97 ≤ n ∧ n ≤ 102 then n - 87 else 16
  if v < base then some v else none

def readDigits (base : Nat) : List Char → Nat → Option Nat
  | [], acc => some acc
  | ch :: rest, acc => do readDigits base rest (acc * base + (← digitValue base ch))

/-- An unsigned integer: decimal, or hexadecimal after `0x` (00_scope.md R6). -/
def readNat (l : List Char) : Option Nat :=
  match l with
  | [] => none
  | '0' :: 'x' :: [] => none
  | '0' :: 'x' :: rest => readDigits 16 rest 0
  | _ => readDigits 10 l 0

/-- A decimal with an optional fraction, `whole.fraction`, as numerator and denominator. R69 does not say whether digits may
be missing beside the point: the model takes neither `.5` nor `5.` (DESIGN CHOICE, log 13). -/
def readFraction (l : List Char) : Option (Nat × Nat) :=
  match splitAt '.' l with
  | [whole] => if whole = [] then none else do return (← readDigits 10 whole 0, 1)
  | [whole, fraction] =>
    if whole = [] ∨ fraction = [] then none
    else do return (← readDigits 10 (whole ++ fraction) 0, 10 ^ fraction.length)
  | _ => none

/-- A decimal with an optional power of ten, such as `1e-20` (95_test_vectors.md). -/
def readDecimal (l : List Char) : Option (Nat × Nat) :=
  match splitAt 'e' l with
  | [mantissa] => readFraction mantissa
  | [mantissa, '-' :: power] => do
    let (num, den) ← readFraction mantissa
    if power = [] then none else return (num, den * 10 ^ (← readDigits 10 power 0))
  | [mantissa, power] => do
    let (num, den) ← readFraction mantissa
    if power = [] then none else return (num * 10 ^ (← readDigits 10 power 0), den)
  | _ => none

def readReal : List Char → Option RealLiteral
  | ['i', 'n', 'f'] => some (.infinity false)
  | ['-', 'i', 'n', 'f'] => some (.infinity true)
  | ['n', 'a', 'n'] => some .nan
  | 'b' :: 'i' :: 't' :: 's' :: ':' :: '0' :: 'x' :: rest =>
    if rest = [] then none else (readDigits 16 rest 0).map .bits
  | '-' :: rest => (readDecimal rest).map fun v => .decimal true v.1 v.2
  | l => (readDecimal l).map fun v => .decimal false v.1 v.2

def readCurve (l : List Char) : Option CurveLiteral :=
  if String.ofList l = "LINEAR" then some .linear else (readNat l).map .number

def readKind (l : List Char) : Option KindLiteral :=
  match String.ofList l with
  | "Q" => some .q
  | "BW" => some .bw
  | "S" => some .s
  | _ => (readNat l).map .number

def readResponseType (l : List Char) : Option ResponseType :=
  match String.ofList l with
  | "CFG.BQ.LP" => some .lowPass
  | "CFG.BQ.HP" => some .highPass
  | "CFG.BQ.BP" => some .bandPass
  | "CFG.BQ.NOTCH" => some .notch
  | "CFG.BQ.APK" => some .audioPeak
  | "CFG.BQ.PEQ" => some .peakingEq
  | "CFG.BQ.LS" => some .lowShelf
  | "CFG.BQ.HS" => some .highShelf
  | _ => none

/-- A mnemonic with its operands, in the order R69 lists them. -/
def readInstr (mnemonic : List Char) : List (List Char) → Option AsmLine
  | [] =>
    match String.ofList mnemonic with
    | "NOP" => some .nop
    | "CLRST" => some .clrst
    | "SRST" => some .srst
    | "DECODE" => some .decode
    | "ENCODE" => some .encode
    | "SPLIT" => some .split
    | "MERGE" => some .merge
    | "CYCLE" => some .cycle
    | _ => none
  | [c] =>
    match String.ofList mnemonic with
    | "CH.CLEAR" => (readNat c).map .chClear
    | "CH.ACT" => (readNat c).map .chAct
    | "APPLY" => (readNat c).map .apply
    | _ => none
  | [c, taps] =>
    if String.ofList mnemonic = "CFG.DLYT" then do return .cfgDlyt (← readNat c) (← readNat taps) else none
  | [c, x, y] =>
    match String.ofList mnemonic with
    | "CFG.DLYM" => do return .cfgDlym (← readNat c) (← readNat x) (← readNat y)
    | "CFG.VOL" => do return .cfgVol (← readNat c) (← readCurve x) (← readReal y)
    | _ => none
  | [c, kind, rate, f0, gainDb, param] => do
    return .cfgBq (← readResponseType mnemonic) (← readNat c) (← readKind kind) (← readReal rate) (← readReal f0)
      (← readReal gainDb) (← readReal param)
  | _ => none

/-- What is left of a line: the text before a comment, without the blanks around it. -/
def stripComment (l : List Char) : List Char := trim (l.takeWhile (fun ch => ch ≠ ';'))

/-- A line of text as the line it writes: `some none` for a line with no instruction. -/
def readLine (text : List Char) : Option (Option AsmLine) :=
  let body := stripComment text
  let mnemonic := body.takeWhile (fun ch => !isBlank ch)
  let rest := trim (body.dropWhile (fun ch => !isBlank ch))
  if body = [] then some none
  else (readInstr mnemonic (if rest = [] then [] else (splitAt ',' rest).map trim)).map some

/-- The packets of a line of text; none where it is not of the syntax. -/
def assembleText (text : String) : Option (List (List Word)) := do
  match ← readLine text.toList with
  | none => return []
  | some line => packetsOf line

end Machine
end Sys2Proof
end

