-- ==== Sys2Proof/Safety.lean ====
section
/-! DEFINITION. What counts as a legal state and a safe run, and the words the claims use: what a command leaves alone, the
record a completed command leaves, the code it must end with, and readings of the spec that do without the model's free
values or without its order of work. No meaning reads this file. -/

namespace Sys2Proof
namespace Machine

/-! ## Legal states -/

/-- RESULT holds a code 0 to 7 and STATUS no bit above 6 (10_state.md R14, R15). -/
def State.RecordOk (s : State) : Prop := s.result.toNat ≤ 7 ∧ s.status.toNat < 2 ^ 7

/-- NSLOT and MAXF are at least 1 (00_scope.md R5). -/
def State.CapacitiesOk (s : State) : Prop := 1 ≤ s.nslot.toNat ∧ 1 ≤ s.maxf

/-- No buffer memory lists an element outside its capacity (10_state.md R30). -/
def State.BuffersOk (s : State) : Prop :=
  (∀ p ∈ s.mem.pcmin, p.1 < 2 * s.maxf) ∧ (∀ p ∈ s.mem.ilv, p.1 < 2 * s.maxf) ∧
  (∀ c, ∀ p ∈ s.chCells c, p.1 < s.maxf) ∧ (∀ p ∈ s.mem.pcmout, p.1 < 2 * s.maxf)

/-- LEN_OUT, which no host can write, is within the capacity of PCMOUT (10_state.md R17). -/
def State.LenOutOk (s : State) : Prop := s.lenOut.toNat ≤ 2 * s.maxf

/-- A slot of kind DELAY (10_state.md R23, R24, R28). -/
def Slot.IsDelay (r : Slot) : Prop :=
  (r.kind = 0x00001#64 ∨ (r.kind = 0x10001#64 ∧ r.taps = 1#64)) ∧
  1 ≤ r.taps.toNat ∧ r.taps.toNat ≤ 2 ^ 28 ∧ r.head.toNat < r.taps.toNat ∧
  r = { Slot.empty with kind := r.kind, taps := r.taps, head := r.head }

/-- A slot of kind VOLUME (10_state.md R23, R25, R28). -/
def Slot.IsVolume (r : Slot) : Prop :=
  r.gain.toNat < 2 ^ 32 ∧ r = { Slot.empty with kind := 0x00002#64, gain := r.gain }

/-- A slot of kind BIQUAD: TYPE and PKIND are a pair that CFG.BQ takes, and the fields 1 to 3 are zero (10_state.md R23,
R28). Six types times two kinds, two types with one. -/
def Slot.IsBiquad (r : Slot) : Prop :=
  (∃ type pkind : Nat, r.kind = BitVec.ofNat 64 (3 + 16 * type + 256 * pkind) ∧
    ((type ≤ 5 ∧ pkind ≤ 1) ∨ ((type = 6 ∨ type = 7) ∧ pkind = 2))) ∧
  r.taps = 0#64 ∧ r.head = 0#64 ∧ r.gain = 0#64

/-- A slot that a CFG command has built. -/
def Slot.IsBuilt (r : Slot) : Prop := r.IsDelay ∨ r.IsVolume ∨ r.IsBiquad

/-- The chain of one channel: NFILT is 0 to NSLOT (10_state.md R18), the slots below it are built, the others EMPTY (R22,
43_filter_chain.md R124), and a delay memory has the TAPS elements of its slot: none where the slot is no delay line
(R29). -/
structure State.ChainOk (s : State) (c : Channel) : Prop where
  nfilt_le : (s.chain c).nfilt.toNat ≤ s.nslot.toNat
  built : ∀ k, k < (s.chain c).nfilt.toNat → (s.slot c k).IsBuilt
  empty : ∀ k, (s.chain c).nfilt.toNat ≤ k → s.slot c k = Slot.empty
  ring : ∀ k, ∀ p ∈ s.ring c k, p.1 < (s.slot c k).taps.toNat
  canonical : Canonical Slot.empty (s.chain c).slots

/-- Everything together: what every state of a run from reset is. -/
structure State.Legal (s : State) : Prop where
  memory : s.mem.wf
  record : s.RecordOk
  capacities : s.CapacitiesOk
  buffers : s.BuffersOk
  lenOut : s.LenOutOk
  chains : ∀ c, s.ChainOk c

/-- A safe run of `n` steps: no step stops, and every state is legal. -/
def SafeRun : Nat → State → Prop
  | 0, s => s.Legal
  | n + 1, s => s.Legal ∧ ∃ t, step s = .next t ∧ SafeRun n t

/-! ## What a command leaves alone -/

/-- CAP, the host's list, its answers, and the model's count of power-ups. -/
def SameSurroundings (s t : State) : Prop :=
  t.cap = s.cap ∧ t.inbox = s.inbox ∧ t.answers = s.answers ∧ t.powerUps = s.powerUps

/-- STATE and NFILT, every slot and every delay memory of a channel. -/
def SameChain (c : Channel) (s t : State) : Prop :=
  (t.chain c).phase = (s.chain c).phase ∧ (t.chain c).nfilt = (s.chain c).nfilt ∧
  (∀ k, t.slot c k = s.slot c k) ∧ (∀ k, t.ring c k = s.ring c k)

/-- As `SameChain`, but STATE has become FAILED (43_filter_chain.md R125). -/
def OnlyFailed (c : Channel) (s t : State) : Prop :=
  (t.chain c).phase = .failed ∧ (t.chain c).nfilt = (s.chain c).nfilt ∧
  (∀ k, t.slot c k = s.slot c k) ∧ (∀ k, t.ring c k = s.ring c k)

def SamePcmin (s t : State) : Prop := ∀ i, t.pcminAt i = s.pcminAt i

def SameIlv (s t : State) : Prop := ∀ i, t.ilvAt i = s.ilvAt i

def SameCh (c : Channel) (s t : State) : Prop := ∀ i, t.chAt c i = s.chAt c i

def SamePcmout (s t : State) : Prop := ∀ i, t.pcmoutAt i = s.pcmoutAt i

/-- Every element of the five buffer memories. -/
def SameBuffers (s t : State) : Prop :=
  SamePcmin s t ∧ SameIlv s t ∧ (∀ c, SameCh c s t) ∧ SamePcmout s t

/-- The five length registers. -/
def SameLengths (s t : State) : Prop :=
  t.lenIn = s.lenIn ∧ t.lenIlv = s.lenIlv ∧ (∀ c, t.lenCh c = s.lenCh c) ∧ t.lenOut = s.lenOut

/-- Everything but the record. -/
def SameButRecord (s t : State) : Prop :=
  SameSurroundings s t ∧ SameLengths s t ∧ SameBuffers s t ∧ ∀ c, SameChain c s t

/-! ## The record (60_exceptions.md R220) -/

/-- What `complete(code, word0)` leaves, and the model's counter one up. -/
def Recorded (code : Nat) (word0 : Word) (s t : State) : Prop :=
  t.result = BitVec.ofNat 32 code ∧
  (code = 0 → t.status = s.status ∧ t.errword = s.errword) ∧
  (code ≠ 0 → t.status = s.status ||| (1#32 <<< (code - 1)) ∧ t.errword = word0) ∧
  t.freeTick = s.freeTick + 1

/-- A command that ends with this code and has no other effect. -/
def OnlyRecorded (code : Nat) (word0 : Word) (s t : State) : Prop := Recorded code word0 s t ∧ SameButRecord s t

/-- What a CFG command leaves that builds a slot in channel `c`: one slot more, with a delay memory of zeros where it is a
delay line, the chain still OPEN, and all else as it was (43_filter_chain.md R125). -/
def Built (c : Channel) (r : Slot) (s t : State) : Prop :=
  SameSurroundings s t ∧ SameLengths s t ∧ SameBuffers s t ∧ SameChain c.other s t ∧
  (t.chain c).phase = .opened ∧ (t.chain c).nfilt.toNat = (s.chain c).nfilt.toNat + 1 ∧
  t.slot c (s.chain c).nfilt.toNat = r ∧ (∀ j, readOr 0#32 (t.ring c (s.chain c).nfilt.toNat) j = 0#32) ∧
  ∀ k, k ≠ (s.chain c).nfilt.toNat → t.slot c k = s.slot c k ∧ t.ring c k = s.ring c k

/-- The chain is OPEN and has a free slot: what every CFG command needs (43_filter_chain.md R125). -/
def CanBuild (c : Channel) (s : State) : Prop :=
  (s.chain c).phase = .opened ∧ (s.chain c).nfilt.toNat < s.nslot.toNat

/-- A CFG command that ends with an error and takes its chain to FAILED: no slot is built (43_filter_chain.md R125). -/
def FailsChain (code : Nat) (word0 : Word) (c : Channel) (s t : State) : Prop :=
  Recorded code word0 s t ∧ SameSurroundings s t ∧ SameLengths s t ∧ SameBuffers s t ∧
  OnlyFailed c s t ∧ SameChain c.other s t

/-- The errors of a CFG command for channel `c`: ChainState, ChainFull, and InvalidParameter where its own validation
fails (43_filter_chain.md R125). -/
def CfgErrors (i : Instr) (c : Channel) (word0 : Word) (invalid : Prop) (s : State) : Prop :=
  ((s.chain c).phase ≠ .opened → ∃ t, exec i s = .next t ∧ OnlyRecorded 5 word0 s t) ∧
  ((s.chain c).phase = .opened → (s.chain c).nfilt = s.nslot → ∃ t, exec i s = .next t ∧ FailsChain 6 word0 c s t) ∧
  (CanBuild c s → invalid → ∃ t, exec i s = .next t ∧ FailsChain 2 word0 c s t)

/-- The CH bit as part of a command word. -/
def chBit (c : Channel) : Word := (bitOfChannel c).setWidth 32

/-- Word 0 of a CFG.BQ packet: 0x40000000 + (TYPE << 20) + (PKIND << 16) + c (46_biquad_coefficients.md section 2). -/
def biquadWord (type : Word) (pkind : ParamKind) (c : Channel) : Word :=
  0x40000000#32 + (type <<< 20) + ((paramKindCode pkind).setWidth 32 <<< 16) + chBit c

/-- KIND of a biquad slot: 3 + (TYPE << 4) + (PKIND << 8) (46_biquad_coefficients.md R163). -/
def biquadKindWord (type : BitVec 64) (pkind : ParamKind) : BitVec 64 :=
  3#64 + (type <<< 4) + ((paramKindCode pkind).setWidth 64 <<< 8)

/-- The nineteen fields of a slot in the order of their numbers f = 0 to 18 (10_state.md R22). -/
def slotRecord (r : Slot) : List (BitVec 64) :=
  [r.kind, r.taps, r.head, r.gain, r.b0, r.b1, r.b2, r.a0, r.a1, r.a2, r.n0, r.n1, r.n2, r.n3, r.n4, r.x1, r.x2, r.y1, r.y2]

/-- The registers, chains, slots and delay memories after a reset of any cause (10_state.md R32,
70_reset_and_hazards.md R241). -/
def ResetRegisters (t : State) : Prop :=
  t.readReg 0 = 0x44455131#32 ∧ t.readReg 2 = 0#32 ∧ t.readReg 3 = 0#32 ∧ t.readReg 4 = 0#32 ∧
  t.readReg 5 = 0#32 ∧ t.readReg 6 = 0#32 ∧ t.readReg 7 = 0#32 ∧ t.readReg 8 = 0#32 ∧ t.readReg 9 = 0#32 ∧
  t.readReg 10 = 0#32 ∧ t.readReg 11 = 0#32 ∧
  ∀ c, (t.chain c).phase = .opened ∧ (t.chain c).nfilt = 0#8 ∧
    ∀ k, (∀ f, (t.slot c k).field f = 0#64) ∧ t.ring c k = []

/-! ## Which code a command ends with (60_exceptions.md R211 to R219) -/

/-- The channel whose chain a CFG command builds. -/
def configuredChannel : Instr → Option Channel
  | .nop | .clrst | .srst | .decode | .encode | .split | .merge => none
  | .chClear _ | .chAct _ | .apply _ => none
  | .cfgDlyt c _ | .cfgDlym c _ _ | .cfgVol c _ _ => some c
  | .cfgBqLp c _ _ | .cfgBqHp c _ _ | .cfgBqBp c _ _ | .cfgBqNotch c _ _ => some c
  | .cfgBqApk c _ _ | .cfgBqPeq c _ _ | .cfgBqLs c _ _ | .cfgBqHs c _ _ => some c

/-- The channel a command names (30_encoding.md R61). -/
def namedChannel : Instr → Option Channel
  | .chClear c | .chAct c | .apply c => some c
  | i => configuredChannel i

/-- ChainState (R216). -/
def wrongState (s : State) : Instr → Bool
  | .chAct c => decide ((s.chain c).phase = .failed)
  | .apply c => decide ((s.chain c).phase ≠ .active)
  | i =>
    match configuredChannel i with
    | some c => decide ((s.chain c).phase ≠ .opened)
    | none => false

/-- ChainFull (R217), of an OPEN chain. -/
def noFreeSlot (s : State) (i : Instr) : Bool :=
  match configuredChannel i with
  | some c => decide ((s.chain c).nfilt = s.nslot)
  | none => false

/-- BadLength (R218). -/
def lengthTooLarge (s : State) : Instr → Bool
  | .decode => decide (2 * s.maxf < s.lenIn.toNat)
  | .encode => decide (2 * s.maxf < s.lenIlv.toNat)
  | .split => decide (2 * s.maxf < s.lenIlv.toNat)
  | .merge => decide (s.maxf < s.lenCh0.toNat ∨ s.maxf < s.lenCh1.toNat)
  | .apply c => decide (s.maxf < (s.lenCh c).toNat)
  | _ => false

/-- The biquad conditions of R213's list that do not depend on the type. -/
def notAllPositive (ops : BiquadOperands) : Bool :=
  !(f64IsPositive ops.rate) || !(f64IsPositive ops.f0) || !(f64IsPositive ops.param)

/-- Of the six types that take Q or Bandwidth. -/
def kindNeitherQNorBandwidth : ParamKind → Bool
  | .q => false
  | .bandwidth => false
  | .slope => true
  | .reserved _ => true

/-- Of the two shelves, which take Slope. -/
def kindNotSlope : ParamKind → Bool
  | .q => true
  | .bandwidth => true
  | .slope => false
  | .reserved _ => true

/-- InvalidParameter (R213), line by line of its list. -/
def invalidParameter : Instr → Bool
  | .cfgDlym _ _ sampleRate => decide (sampleRate = 0#32)
  | .cfgVol _ curve _ => decide (curve ≠ .linear)
  | .cfgBqLp _ pkind ops | .cfgBqHp _ pkind ops | .cfgBqBp _ pkind ops | .cfgBqNotch _ pkind ops
  | .cfgBqApk _ pkind ops | .cfgBqPeq _ pkind ops => kindNeitherQNorBandwidth pkind || notAllPositive ops
  | .cfgBqLs _ pkind ops | .cfgBqHs _ pkind ops => kindNotSlope pkind || notAllPositive ops
  | _ => false

/-- LengthMismatch (R212). -/
def lengthsDiffer (s : State) : Instr → Bool
  | .merge => decide (s.lenCh0 ≠ s.lenCh1)
  | _ => false

/-- ResourceLimitExceeded, the warning (R214). -/
def tapsClamped : Instr → Bool
  | .cfgDlyt _ taps => decide (2 ^ 28 < taps.toNat)
  | .cfgDlym _ delayMs sampleRate => decide (2 ^ 28 < delayMs.toNat * sampleRate.toNat / 1000)
  | _ => false

/-- The first code that applies, in the order of R219 (its first place, IllegalCommand, belongs to packets that are no
instruction). -/
def expectedCode (i : Instr) (s : State) : Nat :=
  if wrongState s i then 5
  else if noFreeSlot s i then 6
  else if lengthTooLarge s i then 7
  else if invalidParameter i then 2
  else if lengthsDiffer s i then 1
  else if tapsClamped i then 3
  else 0

/-! ## The coefficient unit without NaN bits (46_biquad_coefficients.md)

The formulas of the rules, read with one fixed quiet NaN. The model's results equal these up to the bits of a NaN, which
the spec leaves open (40_numerics.md R89). -/

/-- The same number, or both a NaN. -/
def SameNumber (a b : F64) : Prop := a = b ∨ (isNaN64 a = true ∧ isNaN64 b = true)

namespace Cookbook

def add (a b : F64) : F64 := f64Add 0#64 a b
def sub (a b : F64) : F64 := f64Sub 0#64 a b
def mul (a b : F64) : F64 := f64Mul 0#64 a b
def div (a b : F64) : F64 := f64Div 0#64 a b
def sqrt (a : F64) : F64 := f64Sqrt 0#64 a

/-- A of R161. -/
def bigA (ops : BiquadOperands) : F64 := fPow ten64 (div ops.gainDb forty64)

/-- ω0 of R161. -/
def omega (ops : BiquadOperands) : F64 := div (mul (mul two64 piF64) ops.f0) ops.rate

/-- cos ω0 of R161. -/
def cs (ops : BiquadOperands) : F64 := fCos (omega ops)

/-- sin ω0 of R161. -/
def sn (ops : BiquadOperands) : F64 := fSin (omega ops)

/-- α of R162 from Q. -/
def alphaQ (ops : BiquadOperands) : F64 := div (sn ops) (mul two64 ops.param)

/-- α of R162 from a bandwidth. -/
def alphaBandwidth (ops : BiquadOperands) : F64 :=
  let t := fPow two64 ops.param
  div (sn ops) (mul two64 (div (sqrt t) (sub t one64)))

/-- α of R162 from a slope. -/
def alphaSlope (ops : BiquadOperands) : F64 :=
  mul (div (sn ops) two64)
    (sqrt (add (mul (add (bigA ops) (div one64 (bigA ops))) (sub (div one64 ops.param) one64)) two64))

/-- α of R162, by PKIND. -/
def alpha (pkind : ParamKind) (ops : BiquadOperands) : F64 :=
  match pkind with
  | .q => alphaQ ops
  | .bandwidth => alphaBandwidth ops
  | .slope => alphaSlope ops
  | .reserved _ => alphaQ ops

/-- -(2 cos ω0). -/
def minusTwoCos (ops : BiquadOperands) : F64 := f64Neg (mul two64 (cs ops))

/-- u + r of R170 and R171 and the like are made of these: r, p, m, m cos ω0, p cos ω0. -/
def r (ops : BiquadOperands) : F64 := mul (mul two64 (sqrt (bigA ops))) (alphaSlope ops)
def p (ops : BiquadOperands) : F64 := add (bigA ops) one64
def m (ops : BiquadOperands) : F64 := sub (bigA ops) one64
def u (ops : BiquadOperands) : F64 := sub (p ops) (mul (m ops) (cs ops))
def v (ops : BiquadOperands) : F64 := add (p ops) (mul (m ops) (cs ops))

end Cookbook

/-- A biquad slot with this KIND and these six raw coefficients: the ratios of R163, the histories zero, the fields of
other kinds zero; the numbers up to the bits of a NaN. -/
def BiquadSlotIs (r : Slot) (kind : BitVec 64) (b0 b1 b2 a0 a1 a2 : F64) : Prop :=
  r.kind = kind ∧ r.taps = 0#64 ∧ r.head = 0#64 ∧ r.gain = 0#64 ∧
  SameNumber r.b0 b0 ∧ SameNumber r.b1 b1 ∧ SameNumber r.b2 b2 ∧
  SameNumber r.a0 a0 ∧ SameNumber r.a1 a1 ∧ SameNumber r.a2 a2 ∧
  SameNumber r.n0 (Cookbook.div b0 a0) ∧ SameNumber r.n1 (Cookbook.div b1 a0) ∧
  SameNumber r.n2 (Cookbook.div b2 a0) ∧ SameNumber r.n3 (Cookbook.div a1 a0) ∧
  SameNumber r.n4 (Cookbook.div a2 a0) ∧
  r.x1 = 0#64 ∧ r.x2 = 0#64 ∧ r.y1 = 0#64 ∧ r.y2 = 0#64

/-- The success of a CFG.BQ command: code 0, and one slot built with this KIND and these raw coefficients. -/
def BuildsBiquad (i : Instr) (c : Channel) (word0 : Word) (kind : BitVec 64) (b0 b1 b2 a0 a1 a2 : F64)
    (s : State) : Prop :=
  ∃ t r, exec i s = .next t ∧ Recorded 0 word0 s t ∧ Built c r s t ∧ BiquadSlotIs r kind b0 b1 b2 a0 a1 a2

/-! ## Chains, two ways (43_filter_chain.md R124, R126) -/

/-- The filters of a chain with their state, in configured order. -/
def filtersOf (c : Channel) (s : State) : List FilterState :=
  (List.range (s.chain c).nfilt.toNat).map (fun k => (s.slot c k, s.ring c k))

/-- The samples of a channel's buffer below its length register. -/
def samplesOf (c : Channel) (s : State) : List F32 := elements (s.chAt c) (s.lenCh c).toNat

/-- The whole buffer through the filter numbered `k`, then the whole result through the next one (R124). -/
def slotMajor (free : Nat → Nat → Nat → BitVec 64) : Nat → List FilterState → List F32 → List F32 × List FilterState
  | _, [], xs => (xs, [])
  | k, st :: rest, xs =>
    let r := runFilter (free k) 0 st xs
    let q := slotMajor free (k + 1) rest r.1
    (q.1, r.2 :: q.2)

/-- Sample number `i` through all filters, one after the other, from the filter numbered `k`. -/
def throughFilters (free : Nat → Nat → Nat → BitVec 64) (i : Nat) :
    Nat → List FilterState → F32 → F32 × List FilterState
  | _, [], x => (x, [])
  | k, st :: rest, x =>
    let r := stepFilter (free k i) st x
    let q := throughFilters free i (k + 1) rest r.1
    (q.1, r.2 :: q.2)

/-- Each sample through all filters before the next sample is taken (R126). -/
def sampleMajor (free : Nat → Nat → Nat → BitVec 64) : Nat → List FilterState → List F32 → List F32 × List FilterState
  | _, sts, [] => ([], sts)
  | i, sts, x :: xs =>
    let r := throughFilters free i 0 sts x
    let q := sampleMajor free (i + 1) r.2 xs
    (r.1 :: q.1, q.2)

/-- What APPLY leaves: these samples in the channel's buffer and these filters in its slots; all else as it was. -/
def Applied (c : Channel) (out : List F32 × List FilterState) (s t : State) : Prop :=
  SameSurroundings s t ∧ SameLengths s t ∧ SamePcmin s t ∧ SameIlv s t ∧ SamePcmout s t ∧
  SameCh c.other s t ∧ SameChain c.other s t ∧
  (t.chain c).phase = (s.chain c).phase ∧ (t.chain c).nfilt = (s.chain c).nfilt ∧
  samplesOf c t = out.1 ∧ (∀ i, (s.lenCh c).toNat ≤ i → t.chAt c i = s.chAt c i) ∧
  filtersOf c t = out.2 ∧
  ∀ k, (s.chain c).nfilt.toNat ≤ k → t.slot c k = s.slot c k ∧ t.ring c k = s.ring c k

/-! ## A delay line as a first-in-first-out sequence (44_delay_line.md R144) -/

/-- The T samples a delay line holds, oldest first. -/
def delayQueue (st : FilterState) : List F32 :=
  (List.range st.1.taps.toNat).map
    (fun j => readOr 0#32 st.2 ((st.1.head.toNat + j) % st.1.taps.toNat))

/-! ## Distances, for rounding (40_numerics.md R85) -/

/-- The distance of two natural numbers. -/
def gap (a b : Nat) : Nat := (a - b) + (b - a)

/-! ## Non-finite values in a biquad (47_biquad_filter.md R193) -/

/-- One of the five ratios or of the four histories is a NaN. -/
def Poisoned (r : Slot) : Prop :=
  isNaN64 r.n0 = true ∨ isNaN64 r.n1 = true ∨ isNaN64 r.n2 = true ∨ isNaN64 r.n3 = true ∨ isNaN64 r.n4 = true ∨
  isNaN64 r.x1 = true ∨ isNaN64 r.x2 = true ∨ isNaN64 r.y1 = true ∨ isNaN64 r.y2 = true

/-- The same sample, or both a NaN. -/
def SameSample (a b : F32) : Prop := a = b ∨ (isNaN32 a = true ∧ isNaN32 b = true)

end Machine
end Sys2Proof
end

