-- ==== Sys2Proof/Certificates/Slice0/Obligations.lean ====
section
/-! DEFINITION. The statements for the provers. Each says which rule of the spec it formalises. -/

section BlockStatements

open Sys2Proof Sys2Proof.Machine

/-! ## Encoding -/

/-- Every well-formed instruction is what its own packet decodes to: no field of an encoding is dropped
(30_encoding.md R61, R64, R65, R66). -/
def Obligations.DecodeOfEncode : Prop :=
  ∀ i : Instr, i.wellFormed = true → decode (encode i) = .ok i

/-- A packet that decodes is the packet of the instruction it decodes to, which is well-formed: each instruction has one
packet (R61 to R67). -/
def Obligations.EncodeOfDecode : Prop :=
  ∀ (ws : List Word) (i : Instr), decode ws = .ok i → i.wellFormed = true ∧ encode i = ws

/-- A packet is the instruction of exactly one row of the opcode map, or of none and then it is rejected (R66, R67, and
what the spec derives from them in R68). -/
def Obligations.PacketIsOneRowOrIllegal : Prop :=
  ∀ (w : Word) (operands : List Word),
    (∃ row ∈ opcodeMap, row.covers w operands = true ∧
      (∀ row' ∈ opcodeMap, row'.covers w operands = true → row' = row) ∧
      ∃ i, decode (w :: operands) = .ok i ∧ i.mnemonic = row.mnemonic) ∨
    ((∀ row ∈ opcodeMap, row.covers w operands = false) ∧ ∃ r, decode (w :: operands) = .error r)

/-- The number of words is a function of OPC alone, and any other number is an illegal command (R63). -/
def Obligations.PacketLengthByOpcode : Prop :=
  packetWords 0x30#8 = 2 ∧ packetWords 0x31#8 = 3 ∧ packetWords 0x32#8 = 2 ∧ packetWords 0x40#8 = 9 ∧
  (∀ opc : BitVec 8, opc ≠ 0x30#8 → opc ≠ 0x31#8 → opc ≠ 0x32#8 → opc ≠ 0x40#8 → packetWords opc = 1) ∧
  ∀ (w : Word) (operands : List Word), operands.length + 1 ≠ packetWords (w.extractLsb' 24 8) →
    ∃ r, decode (w :: operands) = .error r

/-- A 64-bit operand is {second word, first word}, in the order RATE, F0, GAIN_DB, PARAM (R64, R65). -/
def Obligations.OperandHalvesLowFirst : Prop :=
  ∀ (w w1 w2 w3 w4 w5 w6 w7 w8 : Word) (i : Instr),
    decode [w, w1, w2, w3, w4, w5, w6, w7, w8] = .ok i →
    ∃ type c pkind, i = biquadInstr type c pkind ⟨w2 ++ w1, w4 ++ w3, w6 ++ w5, w8 ++ w7⟩

/-- Some command words, written out from the fields of R61 and the values of R66, decode as they should: a sanity
statement. -/
def Obligations.SampleWordsDecode : Prop :=
  decode [0x00000000#32] = .ok .nop ∧ decode [0x13000000#32] = .ok .merge ∧
  decode [0x22000001#32] = .ok (.apply .ch1) ∧
  decode [0x31000001#32, 0x0000000A#32, 0x0000BB80#32] = .ok (.cfgDlym .ch1 10#32 48000#32) ∧
  decode [0x32000000#32, 0x40000000#32] = .ok (.cfgVol .ch0 .linear 0x40000000#32) ∧
  decode [0x32F00001#32, 0x40000000#32] = .ok (.cfgVol .ch1 (.reserved 15) 0x40000000#32) ∧
  decode [0x40620000#32, 0#32, 0x40E77000#32, 0#32, 0x40690000#32, 0#32, 0x40180000#32, 0#32, 0x3FF00000#32] =
    .ok (.cfgBqLs .ch0 .slope
      ⟨0x40E7700000000000#64, 0x4069000000000000#64, 0x4018000000000000#64, 0x3FF0000000000000#64⟩)

/-- The pseudo-instruction CYCLE stands for six packets, in this order (R70). -/
def Obligations.CycleIsSixPackets : Prop :=
  packetsOf .cycle =
    some [[0x10000000#32], [0x12000000#32], [0x22000000#32], [0x22000001#32], [0x13000000#32], [0x11000000#32]]

/-! ## One step of the machine -/

/-- When the host's next action is a packet that decodes to `i`, the step is `exec i`, the packet taken from the host's
list; the block adds nothing around it (00_scope.md R8; the list is the model's, log 1). -/
def Obligations.StepRunsTheDecodedInstruction : Prop :=
  ∀ (s : State) (w : Word) (operands : List Word) (rest : List HostAction) (i : Instr),
    s.inbox = .packet w operands :: rest → decode (w :: operands) = .ok i →
    i.wellFormed = true ∧ step s = exec i { s with inbox := rest }

/-- A packet that is the instruction of no row ends with IllegalCommand and changes nothing but the record, whatever its
bit 0 says (60_exceptions.md R215). -/
def Obligations.IllegalPacketOnlyRecords : Prop :=
  ∀ (s : State) (w : Word) (operands : List Word) (rest : List HostAction),
    s.inbox = .packet w operands :: rest → (∀ row ∈ opcodeMap, row.covers w operands = false) →
    ∃ t, step s = .next t ∧ OnlyRecorded 4 w { s with inbox := rest } t

/-- A HostRead gives the host the element at its index and changes no state of the block; the length registers do not limit
it; the registers, the nineteen slot fields and the three values of STATE are at the numbers of their tables (20_memory.md
R45, 10_state.md R11, R18, R22). That a read is the first action of a list and that its value goes to a list of answers is
the model's choice (log 1, log 2). -/
def Obligations.HostReadReturnsTheElement : Prop :=
  (∀ (s : State) (a : HostAddr) (rest : List HostAction), s.inbox = .read a :: rest →
    step s = .next { s with inbox := rest, answers := s.answers ++ [(a, s.hostRead a)] }) ∧
  ∀ s : State,
    (∀ i, i < 2 * s.maxf → s.hostRead (.pcmin i) = .half (s.pcminAt i)) ∧
    (∀ i, i < 2 * s.maxf → s.hostRead (.ilv i) = .word (s.ilvAt i)) ∧
    (∀ c i, i < s.maxf → s.hostRead (.ch c i) = .word (s.chAt c i)) ∧
    (∀ i, i < 2 * s.maxf → s.hostRead (.pcmout i) = .half (s.pcmoutAt i)) ∧
    (∀ k, k < s.nslot.toNat →
      (List.range 19).map (fun f => s.hostRead (.slot 0 k f)) = (slotRecord (s.slot .ch0 k)).map .dword ∧
      (List.range 19).map (fun f => s.hostRead (.slot 1 k f)) = (slotRecord (s.slot .ch1 k)).map .dword) ∧
    s.hostRead (.reg 0) = .word 0x44455131#32 ∧ s.hostRead (.reg 1) = .word s.cap ∧
    s.hostRead (.reg 2) = .word s.status ∧ s.hostRead (.reg 3) = .word s.result ∧
    s.hostRead (.reg 4) = .word s.errword ∧ s.hostRead (.reg 5) = .word s.lenIn ∧
    s.hostRead (.reg 6) = .word s.lenIlv ∧ s.hostRead (.reg 7) = .word s.lenCh0 ∧
    s.hostRead (.reg 8) = .word s.lenCh1 ∧ s.hostRead (.reg 9) = .word s.lenOut ∧
    ((s.chain .ch0).phase = .opened → s.hostRead (.reg 10) = .word (0#16 ++ (s.chain .ch0).nfilt ++ 0#6 ++ 0#2)) ∧
    ((s.chain .ch0).phase = .active → s.hostRead (.reg 10) = .word (0#16 ++ (s.chain .ch0).nfilt ++ 0#6 ++ 1#2)) ∧
    ((s.chain .ch0).phase = .failed → s.hostRead (.reg 10) = .word (0#16 ++ (s.chain .ch0).nfilt ++ 0#6 ++ 2#2)) ∧
    ((s.chain .ch1).phase = .opened → s.hostRead (.reg 11) = .word (0#16 ++ (s.chain .ch1).nfilt ++ 0#6 ++ 0#2)) ∧
    ((s.chain .ch1).phase = .active → s.hostRead (.reg 11) = .word (0#16 ++ (s.chain .ch1).nfilt ++ 0#6 ++ 1#2)) ∧
    ((s.chain .ch1).phase = .failed → s.hostRead (.reg 11) = .word (0#16 ++ (s.chain .ch1).nfilt ++ 0#6 ++ 2#2))

/-- A HostWrite stores its element in PCMIN, ILV, CH0, CH1 and the four RW length registers, any bit pattern, and nothing
else changes; a write to an RO register, to SLOT or to PCMOUT is ignored (20_memory.md R46). -/
def Obligations.HostWriteStoresTheElement : Prop :=
  (∀ (s : State) (w : HostWrite) (rest : List HostAction), s.inbox = .write w :: rest →
    step s = .next (({ s with inbox := rest } : State).hostWrite w)) ∧
  ∀ s : State,
    (∀ i v, i < 2 * s.maxf → ∃ t, s.hostWrite (.pcmin i v) = t ∧
      (∀ j, t.pcminAt j = if j = i then v else s.pcminAt j) ∧
      SameIlv s t ∧ (∀ c, SameCh c s t) ∧ SamePcmout s t ∧ SameSurroundings s t ∧ SameLengths s t ∧
      (∀ c, SameChain c s t) ∧ t.status = s.status ∧ t.result = s.result ∧ t.errword = s.errword) ∧
    (∀ i v, i < 2 * s.maxf → ∃ t, s.hostWrite (.ilv i v) = t ∧
      (∀ j, t.ilvAt j = if j = i then v else s.ilvAt j) ∧
      SamePcmin s t ∧ (∀ c, SameCh c s t) ∧ SamePcmout s t ∧ SameSurroundings s t ∧ SameLengths s t ∧
      (∀ c, SameChain c s t) ∧ t.status = s.status ∧ t.result = s.result ∧ t.errword = s.errword) ∧
    (∀ c i v, i < s.maxf → ∃ t, s.hostWrite (.ch c i v) = t ∧
      (∀ j, t.chAt c j = if j = i then v else s.chAt c j) ∧
      SamePcmin s t ∧ SameIlv s t ∧ SameCh c.other s t ∧ SamePcmout s t ∧ SameSurroundings s t ∧ SameLengths s t ∧
      (∀ c, SameChain c s t) ∧ t.status = s.status ∧ t.result = s.result ∧ t.errword = s.errword) ∧
    (∀ v, s.hostWrite (.reg 5 v) = { s with lenIn := v } ∧ s.hostWrite (.reg 6 v) = { s with lenIlv := v } ∧
      s.hostWrite (.reg 7 v) = { s with lenCh0 := v } ∧ s.hostWrite (.reg 8 v) = { s with lenCh1 := v }) ∧
    (∀ i v, i < 5 ∨ (8 < i ∧ i < 12) → s.hostWrite (.reg i v) = s) ∧
    (∀ c k f v, s.hostWrite (.slot c k f v) = s) ∧ (∀ i v, s.hostWrite (.pcmout i v) = s)

/-- Out of range a HostRead returns zero of the element's width and a HostWrite is ignored (20_memory.md R47). -/
def Obligations.HostOutOfRangeIsInert : Prop :=
  ∀ s : State,
    (∀ i, 12 ≤ i → s.hostRead (.reg i) = .word 0#32) ∧
    (∀ c k f, 2 ≤ c ∨ s.nslot.toNat ≤ k ∨ 19 ≤ f → s.hostRead (.slot c k f) = .dword 0#64) ∧
    (∀ i, 2 * s.maxf ≤ i → s.hostRead (.pcmin i) = .half 0#16) ∧
    (∀ i, 2 * s.maxf ≤ i → s.hostRead (.ilv i) = .word 0#32) ∧
    (∀ c i, s.maxf ≤ i → s.hostRead (.ch c i) = .word 0#32) ∧
    (∀ i, 2 * s.maxf ≤ i → s.hostRead (.pcmout i) = .half 0#16) ∧
    (∀ i v, 12 ≤ i → s.hostWrite (.reg i v) = s) ∧
    (∀ i v, 2 * s.maxf ≤ i → s.hostWrite (.pcmin i v) = s) ∧
    (∀ i v, 2 * s.maxf ≤ i → s.hostWrite (.ilv i v) = s) ∧
    (∀ c i v, s.maxf ≤ i → s.hostWrite (.ch c i v) = s) ∧
    (∀ c k f v, 2 ≤ c ∨ s.nslot.toNat ≤ k ∨ 19 ≤ f → s.hostWrite (.slot c k f v) = s) ∧
    (∀ i v, 2 * s.maxf ≤ i → s.hostWrite (.pcmout i v) = s)

/-- Every step answers a next state: no fault and no refusal exists (60_exceptions.md R210, R224; the empty Fault type is
the model's, log 10). With no action of the host the block is idle and keeps all its state (60_exceptions.md section 5). -/
def Obligations.EveryStepAnswersNext : Prop :=
  (∀ s : State, ∃ t, step s = .next t) ∧ ∀ s : State, s.inbox = [] → step s = .next s

/-! ## Reset -/

/-- The state right after a power-up reset: the registers, chains, slots and delay memories of the table (10_state.md R32),
and every element of the buffer memories a free value (the free values are the model's form of "unspecified", log 4). -/
def Obligations.ResetStateIsTheTable : Prop :=
  ResetRegisters State.reset ∧ State.reset.readReg 1 = State.reset.cap ∧
  ∀ i, State.reset.pcminAt i = Config.powerUpHalf 0 .pcmin i ∧ State.reset.ilvAt i = Config.powerUpWord 0 .ilv i ∧
    State.reset.chAt .ch0 i = Config.powerUpWord 0 .ch0 i ∧ State.reset.chAt .ch1 i = Config.powerUpWord 0 .ch1 i ∧
    State.reset.pcmoutAt i = Config.powerUpHalf 0 .pcmout i

/-- The state after reset is legal: it has the invariants that every step keeps. -/
def Obligations.ResetStateIsLegal : Prop := State.reset.Legal

/-- The causes of a reset leave the same registers, chains, slots and delay memories; the external input and SRST keep the
buffer memories, a power-up leaves free values in them, and an external reset that cuts a command short keeps all but those
the command was writing: it keeps them all where the command would have ended with another code than 0, or was illegal
(70_reset_and_hazards.md R240, R241; log 4, log 9). -/
def Obligations.ResetCausesAgree : Prop :=
  ∀ (s : State) (rest : List HostAction),
    (s.inbox = .reset :: rest → ∃ t, step s = .next t ∧ ResetRegisters t ∧ SameBuffers s t ∧ t.cap = s.cap ∧
      t.inbox = rest) ∧
    (s.inbox = .powerUp :: rest → ∃ t, step s = .next t ∧ ResetRegisters t ∧ t.cap = s.cap ∧ t.inbox = rest ∧
      ∀ i, t.pcminAt i = Config.powerUpHalf (s.powerUps + 1) .pcmin i ∧
        t.ilvAt i = Config.powerUpWord (s.powerUps + 1) .ilv i ∧
        t.chAt .ch0 i = Config.powerUpWord (s.powerUps + 1) .ch0 i ∧
        t.chAt .ch1 i = Config.powerUpWord (s.powerUps + 1) .ch1 i ∧
        t.pcmoutAt i = Config.powerUpHalf (s.powerUps + 1) .pcmout i) ∧
    (s.inbox = .packet 0x02000000#32 [] :: rest → ∃ t, step s = .next t ∧ ResetRegisters t ∧ SameBuffers s t ∧
      t.cap = s.cap ∧ t.inbox = rest) ∧
    (∀ w operands i, s.inbox = .resetDuring w operands :: rest → decode (w :: operands) = .ok i →
      ∃ t, step s = .next t ∧ ResetRegisters t ∧ t.cap = s.cap ∧ t.inbox = rest ∧ SamePcmin s t ∧
        (i ≠ .decode → i ≠ .merge → SameIlv s t) ∧ (∀ c, i ≠ .split → i ≠ .apply c → SameCh c s t) ∧
        (i ≠ .encode → SamePcmout s t) ∧ (expectedCode i s ≠ 0 → SameBuffers s t)) ∧
    (∀ w operands r, s.inbox = .resetDuring w operands :: rest → decode (w :: operands) = .error r →
      ∃ t, step s = .next t ∧ ResetRegisters t ∧ SameBuffers s t ∧ t.cap = s.cap ∧ t.inbox = rest)

/-! ## The system commands -/

/-- NOP does nothing: code 0, and STATUS and ERRWORD are not touched (48_system.md R200). -/
def Obligations.NopDoesNothing : Prop :=
  encode .nop = [0x00000000#32] ∧ ∀ s : State, ∃ t, exec .nop s = .next t ∧ OnlyRecorded 0 0x00000000#32 s t

/-- CLRST clears the error record and nothing else; a FAILED chain stays FAILED (48_system.md R201). -/
def Obligations.ClrstClearsTheRecord : Prop :=
  encode .clrst = [0x01000000#32] ∧
  ∀ s : State, ∃ t, exec .clrst s = .next t ∧
    t.status = 0#32 ∧ t.errword = 0#32 ∧ t.result = 0#32 ∧ SameButRecord s t

/-- SRST puts registers, chains and filter state into the reset state and leaves the buffer memories (48_system.md R202). -/
def Obligations.SrstResetsAllButBuffers : Prop :=
  encode .srst = [0x02000000#32] ∧
  ∀ s : State, ∃ t, exec .srst s = .next t ∧ ResetRegisters t ∧ SameBuffers s t ∧ SameSurroundings s t

/-! ## The sample codec and the interleaver -/

/-- DECODE: PCMIN below LEN_IN to ILV, LEN_ILV := LEN_IN, or BadLength (41_sample_codec.md R101). -/
def Obligations.DecodeFillsIlv : Prop :=
  encode .decode = [0x10000000#32] ∧
  ∀ s : State,
    (s.lenIn.toNat ≤ 2 * s.maxf → ∃ t, exec .decode s = .next t ∧ Recorded 0 0x10000000#32 s t ∧
      (∀ i, t.ilvAt i = if i < s.lenIn.toNat then decode1 (s.pcminAt i) else s.ilvAt i) ∧
      t.lenIlv = s.lenIn ∧ t.lenIn = s.lenIn ∧ (∀ c, t.lenCh c = s.lenCh c) ∧ t.lenOut = s.lenOut ∧
      SameSurroundings s t ∧ SamePcmin s t ∧ (∀ c, SameCh c s t) ∧ SamePcmout s t ∧ ∀ c, SameChain c s t) ∧
    (2 * s.maxf < s.lenIn.toNat → ∃ t, exec .decode s = .next t ∧ OnlyRecorded 7 0x10000000#32 s t)

/-- ENCODE: ILV below LEN_ILV to PCMOUT, LEN_OUT := LEN_ILV, or BadLength (41_sample_codec.md R103). -/
def Obligations.EncodeFillsPcmout : Prop :=
  encode .encode = [0x11000000#32] ∧
  ∀ s : State,
    (s.lenIlv.toNat ≤ 2 * s.maxf → ∃ t, exec .encode s = .next t ∧ Recorded 0 0x11000000#32 s t ∧
      (∀ i, t.pcmoutAt i = if i < s.lenIlv.toNat then encode1 (s.ilvAt i) else s.pcmoutAt i) ∧
      t.lenOut = s.lenIlv ∧ t.lenIn = s.lenIn ∧ t.lenIlv = s.lenIlv ∧ (∀ c, t.lenCh c = s.lenCh c) ∧
      SameSurroundings s t ∧ SamePcmin s t ∧ SameIlv s t ∧ (∀ c, SameCh c s t) ∧ ∀ c, SameChain c s t) ∧
    (2 * s.maxf < s.lenIlv.toNat → ∃ t, exec .encode s = .next t ∧ OnlyRecorded 7 0x11000000#32 s t)

/-- SPLIT: even elements of ILV to CH0, odd ones to CH1, with the lengths ceil(L/2) and floor(L/2), or BadLength
(42_channel_interleaver.md R110). -/
def Obligations.SplitDeinterleaves : Prop :=
  encode .split = [0x12000000#32] ∧
  ∀ s : State,
    (s.lenIlv.toNat ≤ 2 * s.maxf → ∃ t, exec .split s = .next t ∧ Recorded 0 0x12000000#32 s t ∧
      (∀ j, t.chAt .ch0 j = if 2 * j < s.lenIlv.toNat then s.ilvAt (2 * j) else s.chAt .ch0 j) ∧
      (∀ j, t.chAt .ch1 j = if 2 * j + 1 < s.lenIlv.toNat then s.ilvAt (2 * j + 1) else s.chAt .ch1 j) ∧
      t.lenCh0.toNat = (s.lenIlv.toNat + 1) / 2 ∧ t.lenCh1.toNat = s.lenIlv.toNat / 2 ∧
      t.lenIn = s.lenIn ∧ t.lenIlv = s.lenIlv ∧ t.lenOut = s.lenOut ∧
      SameSurroundings s t ∧ SamePcmin s t ∧ SameIlv s t ∧ SamePcmout s t ∧ ∀ c, SameChain c s t) ∧
    (2 * s.maxf < s.lenIlv.toNat → ∃ t, exec .split s = .next t ∧ OnlyRecorded 7 0x12000000#32 s t)

/-- MERGE: CH0 and CH1 alternately to ILV, LEN_ILV := 2 n; BadLength before LengthMismatch (42_channel_interleaver.md
R111). -/
def Obligations.MergeInterleaves : Prop :=
  encode .merge = [0x13000000#32] ∧
  ∀ s : State,
    (s.lenCh0.toNat ≤ s.maxf → s.lenCh1 = s.lenCh0 → ∃ t, exec .merge s = .next t ∧ Recorded 0 0x13000000#32 s t ∧
      (∀ j, t.ilvAt (2 * j) = if j < s.lenCh0.toNat then s.chAt .ch0 j else s.ilvAt (2 * j)) ∧
      (∀ j, t.ilvAt (2 * j + 1) = if j < s.lenCh0.toNat then s.chAt .ch1 j else s.ilvAt (2 * j + 1)) ∧
      t.lenIlv.toNat = 2 * s.lenCh0.toNat ∧
      t.lenIn = s.lenIn ∧ (∀ c, t.lenCh c = s.lenCh c) ∧ t.lenOut = s.lenOut ∧
      SameSurroundings s t ∧ SamePcmin s t ∧ (∀ c, SameCh c s t) ∧ SamePcmout s t ∧ ∀ c, SameChain c s t) ∧
    (s.maxf < s.lenCh0.toNat ∨ s.maxf < s.lenCh1.toNat →
      ∃ t, exec .merge s = .next t ∧ OnlyRecorded 7 0x13000000#32 s t) ∧
    (s.lenCh0.toNat ≤ s.maxf → s.lenCh1.toNat ≤ s.maxf → s.lenCh0 ≠ s.lenCh1 →
      ∃ t, exec .merge s = .next t ∧ OnlyRecorded 1 0x13000000#32 s t)

/-- SPLIT and MERGE undo each other on equal lengths, bit for bit; after SPLIT of an odd length MERGE ends with
LengthMismatch (42_channel_interleaver.md section 1, what the spec derives in R112). -/
def Obligations.SplitAndMergeAreInverse : Prop :=
  ∀ s : State,
    (s.lenIlv.toNat ≤ 2 * s.maxf → s.lenIlv.toNat % 2 = 0 →
      ∃ t u, exec .split s = .next t ∧ exec .merge t = .next u ∧ u.result = 0#32 ∧
        u.lenIlv = s.lenIlv ∧ SameIlv s u) ∧
    (s.lenIlv.toNat ≤ 2 * s.maxf → s.lenIlv.toNat % 2 = 1 →
      ∃ t u, exec .split s = .next t ∧ exec .merge t = .next u ∧ u.result = 1#32 ∧
        u.lenIlv = s.lenIlv ∧ SameIlv s u) ∧
    (s.lenCh0.toNat ≤ s.maxf → s.lenCh1 = s.lenCh0 →
      ∃ t u, exec .merge s = .next t ∧ exec .split t = .next u ∧ u.result = 0#32 ∧
        ∀ c, u.lenCh c = s.lenCh c ∧ SameCh c s u)

/-- decode1: the integer test, the two divisors, and the results in [-1.0, 1.0], none of them a NaN, an infinity, a
subnormal or -0.0; exact for negative inputs (41_sample_codec.md section 1). A unit is 2^-149, so 1.0 is 2^149 units and
the smallest normal number 2^23. -/
def Obligations.DecodedSampleIsInRange : Prop :=
  decode1 0x7FFF#16 = 0x3F800000#32 ∧ decode1 0x8000#16 = 0xBF800000#32 ∧ decode1 0x0000#16 = 0x00000000#32 ∧
  ∀ x : Pcm16,
    decode1 x = (if x.toInt < 0 then f32Div 0#64 (f32OfI16 x) 0x47000000#32
      else f32Div 0#64 (f32OfI16 x) 0x46FFFE00#32) ∧
    ∃ m, value32 (decode1 x) = .fin (decide (x.toInt < 0)) m ∧ m ≤ 2 ^ 149 ∧ (x ≠ 0#16 → 2 ^ 23 ≤ m) ∧
      (x.toInt < 0 → m = x.toInt.natAbs * 2 ^ 134)

/-- Every PCM16 value survives decode1 and encode1 (41_sample_codec.md section 3, which the spec derives in R104). -/
def Obligations.CodecRoundTripIsExact : Prop := ∀ x : Pcm16, encode1 (decode1 x) = x

/-- encode1 saturates at 1.0 and -1.0, gives 0 for a NaN, truncates toward zero in between and never changes the sign. Below
1.0 what is truncated is the binary32 product with 32767.0 (0x46FFFE00), which is within one of the exact product; from
-1.0 up the product with 32768.0 is exact (41_sample_codec.md R102, 40_numerics.md R82). -/
def Obligations.EncodeSaturatesAndTruncates : Prop :=
  ∀ x : F32,
    (isNaN32 x = true → encode1 x = 0x0000#16) ∧
    (∀ neg, value32 x = .inf neg → encode1 x = if neg then 0x8000#16 else 0x7FFF#16) ∧
    (∀ m, value32 x = .fin false m → 2 ^ 149 ≤ m → encode1 x = 0x7FFF#16) ∧
    (∀ m, value32 x = .fin true m → 2 ^ 149 ≤ m → encode1 x = 0x8000#16) ∧
    (∀ m, value32 x = .fin true m → m < 2 ^ 149 → (encode1 x).toInt = -((m / 2 ^ 134 : Nat) : Int)) ∧
    (∀ m, value32 x = .fin false m → m < 2 ^ 149 →
      ∃ p, value32 (f32Mul 0#64 x 0x46FFFE00#32) = .fin false p ∧ (encode1 x).toInt = (p / 2 ^ 149 : Nat) ∧
        m * 32767 / 2 ^ 149 ≤ p / 2 ^ 149 ∧ p / 2 ^ 149 ≤ m * 32767 / 2 ^ 149 + 1)

/-! ## Chains -/

/-- CH.CLEAR, in every chain state: every slot EMPTY, no delay memory, NFILT 0, OPEN; nothing else (43_filter_chain.md
R122). -/
def Obligations.ClearTearsTheChainDown : Prop :=
  ∀ (c : Channel) (s : State), encode (.chClear c) = [0x20000000#32 + chBit c] ∧
    ∃ t, exec (.chClear c) s = .next t ∧ Recorded 0 (0x20000000#32 + chBit c) s t ∧
      (t.chain c).phase = .opened ∧ (t.chain c).nfilt = 0#8 ∧
      (∀ k, t.slot c k = Slot.empty) ∧ (∀ k, t.ring c k = []) ∧
      SameSurroundings s t ∧ SameLengths s t ∧ SameBuffers s t ∧ SameChain c.other s t

/-- CH.ACT: OPEN or ACTIVE becomes ACTIVE with its filters untouched; FAILED is ChainState (43_filter_chain.md R123). -/
def Obligations.ActivationNeedsAnUnfailedChain : Prop :=
  ∀ (c : Channel) (s : State), encode (.chAct c) = [0x21000000#32 + chBit c] ∧
    ((s.chain c).phase ≠ .failed → ∃ t, exec (.chAct c) s = .next t ∧ Recorded 0 (0x21000000#32 + chBit c) s t ∧
      (t.chain c).phase = .active ∧ (t.chain c).nfilt = (s.chain c).nfilt ∧
      (∀ k, t.slot c k = s.slot c k) ∧ (∀ k, t.ring c k = s.ring c k) ∧
      SameSurroundings s t ∧ SameLengths s t ∧ SameBuffers s t ∧ SameChain c.other s t) ∧
    ((s.chain c).phase = .failed →
      ∃ t, exec (.chAct c) s = .next t ∧ OnlyRecorded 5 (0x21000000#32 + chBit c) s t)

/-- APPLY: each filter in configured order over the whole buffer, samples in arrival order, in place; ChainState before
BadLength (43_filter_chain.md R124). -/
def Obligations.ApplyRunsTheFiltersInOrder : Prop :=
  ∀ (c : Channel) (s : State), encode (.apply c) = [0x22000000#32 + chBit c] ∧
    ((s.chain c).phase = .active → (s.lenCh c).toNat ≤ s.maxf →
      ∃ t, exec (.apply c) s = .next t ∧ Recorded 0 (0x22000000#32 + chBit c) s t ∧
        Applied c (slotMajor (Config.nanBits s.freeTick) 0 (filtersOf c s) (samplesOf c s)) s t) ∧
    ((s.chain c).phase ≠ .active →
      ∃ t, exec (.apply c) s = .next t ∧ OnlyRecorded 5 (0x22000000#32 + chBit c) s t) ∧
    ((s.chain c).phase = .active → s.maxf < (s.lenCh c).toNat →
      ∃ t, exec (.apply c) s = .next t ∧ OnlyRecorded 7 (0x22000000#32 + chBit c) s t)

/-- Running the whole buffer through filter after filter gives bit for bit what running each sample through all filters
before the next sample gives (43_filter_chain.md section 1, which the spec derives in R126). That the two agree in the bits of
a NaN as well rests on the model's numbering of the free values by command, slot, sample and operation (DESIGN CHOICE,
log 5). -/
def Obligations.ApplyEqualsSampleBySample : Prop :=
  ∀ (c : Channel) (s : State), (s.chain c).phase = .active → (s.lenCh c).toNat ≤ s.maxf →
    ∃ t, exec (.apply c) s = .next t ∧
      Applied c (sampleMajor (Config.nanBits s.freeTick) 0 (filtersOf c s) (samplesOf c s)) s t

/-! ## The three filters -/

/-- A step of a delay line puts out the element at HEAD, stores the sample there and advances HEAD modulo TAPS; the sample
is moved as 32 bits (44_delay_line.md R143). -/
def Obligations.DelayStepSwapsAtHead : Prop :=
  ∀ (free : Nat → BitVec 64) (st : FilterState) (x : F32), st.1.IsDelay →
    ∃ r, stepFilter free st x = (readOr 0#32 st.2 st.1.head.toNat, r) ∧
      r.1 = { st.1 with head := r.1.head } ∧ r.1.head.toNat = (st.1.head.toNat + 1) % st.1.taps.toNat ∧
      ∀ j, readOr 0#32 r.2 j = if j = st.1.head.toNat then x else readOr 0#32 st.2 j

/-- A delay line is a first-in-first-out sequence of exactly T samples, at first T zeros: output j is +0.0 below T and input
j - T from there on, whatever the lengths of the buffers (44_delay_line.md section 3, which the spec derives in R144). -/
def Obligations.DelayLineIsAQueue : Prop :=
  (∀ (free : Nat → Nat → BitVec 64) (i : Nat) (st : FilterState) (xs : List F32), st.1.IsDelay →
    (runFilter free i st xs).1 = (delayQueue st ++ xs).take xs.length ∧
    delayQueue (runFilter free i st xs).2 = (delayQueue st ++ xs).drop xs.length ∧
    (runFilter free i st xs).2.1.IsDelay) ∧
  ∀ (free : Nat → Nat → BitVec 64) (i taps : Nat) (xs : List F32), 1 ≤ taps → taps ≤ 2 ^ 28 →
    (delaySlot taps false).IsDelay ∧
    ∀ j, j < xs.length → (runFilter free i (delaySlot taps false, []) xs).1[j]? =
      if j < taps then some 0#32 else xs[j - taps]?

/-- A step of a gain stage is one binary32 product with the GAIN and writes no state (45_volume_gain.md R151). -/
def Obligations.VolumeStepIsOneProduct : Prop :=
  ∀ (free : Nat → BitVec 64) (st : FilterState) (x : F32), st.1.IsVolume →
    stepFilter free st x = (f32Mul (free 0) x (st.1.gain.setWidth 32), st)

/-- Gain 1.0 is the identity on every sample that is no NaN, gain +0.0 gives a zero with the sample's sign, gain 2.0
doubles exactly or overflows to an infinity, and a NaN stays a NaN under every gain (45_volume_gain.md, which the spec
derives in R152). A unit is 2^-149, so 2^127 is 2^276 units. -/
def Obligations.VolumeGainsOneZeroTwo : Prop :=
  ∀ (free : BitVec 64) (x : F32),
    (isNaN32 x = false → f32Mul free x 0x3F800000#32 = x) ∧
    (∀ neg m, value32 x = .fin neg m → f32Mul free x 0x00000000#32 = if neg then 0x80000000#32 else 0x00000000#32) ∧
    (∀ neg m, value32 x = .fin neg m → m < 2 ^ 276 → value32 (f32Mul free x 0x40000000#32) = .fin neg (2 * m)) ∧
    (∀ neg m, value32 x = .fin neg m → 2 ^ 276 ≤ m → value32 (f32Mul free x 0x40000000#32) = .inf neg) ∧
    (isNaN32 x = true → ∀ gain, isNaN32 (f32Mul free x gain) = true)

/-- A step of a biquad is the recurrence in binary64, combined from left to right; the histories shift, Y1 takes the
binary64 value and the output is that value rounded; the numbers up to the bits of a NaN (47_biquad_filter.md R191). -/
def Obligations.BiquadStepIsTheRecurrence : Prop :=
  ∀ (free : Nat → BitVec 64) (st : FilterState) (s : F32), st.1.IsBiquad →
    ∃ o r, stepFilter free st s = (o, r, st.2) ∧
      r = { st.1 with x1 := r.x1, x2 := st.1.x1, y1 := r.y1, y2 := st.1.y1 } ∧
      SameNumber r.x1 (f64OfF32 0#64 s) ∧
      SameNumber r.y1
        (Cookbook.sub (Cookbook.sub (Cookbook.add (Cookbook.add (Cookbook.mul st.1.n0 (f64OfF32 0#64 s))
          (Cookbook.mul st.1.n1 st.1.x1)) (Cookbook.mul st.1.n2 st.1.x2)) (Cookbook.mul st.1.n3 st.1.y1))
          (Cookbook.mul st.1.n4 st.1.y2)) ∧
      SameSample o (f32OfF64 0#64 r.y1)

/-- Once a ratio or a history of a biquad is a NaN, or a NaN sample comes, every output from there on is a NaN, whatever
the later inputs (47_biquad_filter.md, which the spec derives in R193). -/
def Obligations.BiquadNaNNeverHeals : Prop :=
  ∀ (free : Nat → Nat → BitVec 64) (i : Nat) (st : FilterState) (x : F32) (xs : List F32), st.1.IsBiquad →
    Poisoned st.1 ∨ isNaN32 x = true →
    (∀ o ∈ (runFilter free i st (x :: xs)).1, isNaN32 o = true) ∧ Poisoned (runFilter free i st (x :: xs)).2.1

/-! ## The constructors -/

/-- CFG.DLYT: a delay line with TAPS taps, 0 coerced to 1, more than 2^28 coerced to 1 with CLAMPED set and the warning
(44_delay_line.md R140, R142). -/
def Obligations.DelayFromTapsIsBuilt : Prop :=
  ∀ (c : Channel) (taps : Word) (s : State),
    encode (.cfgDlyt c taps) = [0x30000000#32 + chBit c, taps] ∧
    CfgErrors (.cfgDlyt c taps) c (0x30000000#32 + chBit c) False s ∧
    (CanBuild c s → taps.toNat ≤ 2 ^ 28 → ∃ t, exec (.cfgDlyt c taps) s = .next t ∧
      Recorded 0 (0x30000000#32 + chBit c) s t ∧
      Built c { Slot.empty with kind := 1#64, taps := if taps = 0#32 then 1#64 else taps.setWidth 64 } s t) ∧
    (CanBuild c s → 2 ^ 28 < taps.toNat → ∃ t, exec (.cfgDlyt c taps) s = .next t ∧
      Recorded 3 (0x30000000#32 + chBit c) s t ∧
      Built c { Slot.empty with kind := 0x10001#64, taps := 1#64 } s t)

/-- CFG.DLYM: the tap count is floor(DELAY_MS x SAMPLE_RATE / 1000), exact; a SAMPLE_RATE of 0 is InvalidParameter
(44_delay_line.md R141). -/
def Obligations.DelayFromMillisecondsIsBuilt : Prop :=
  ∀ (c : Channel) (delayMs sampleRate : Word) (s : State),
    encode (.cfgDlym c delayMs sampleRate) = [0x31000000#32 + chBit c, delayMs, sampleRate] ∧
    CfgErrors (.cfgDlym c delayMs sampleRate) c (0x31000000#32 + chBit c) (sampleRate = 0#32) s ∧
    (CanBuild c s → sampleRate ≠ 0#32 → delayMs.toNat * sampleRate.toNat / 1000 ≤ 2 ^ 28 →
      ∃ t r, exec (.cfgDlym c delayMs sampleRate) s = .next t ∧ Recorded 0 (0x31000000#32 + chBit c) s t ∧
        Built c r s t ∧ r = { Slot.empty with kind := 1#64, taps := r.taps } ∧
        r.taps.toNat = max 1 (delayMs.toNat * sampleRate.toNat / 1000)) ∧
    (CanBuild c s → sampleRate ≠ 0#32 → 2 ^ 28 < delayMs.toNat * sampleRate.toNat / 1000 →
      ∃ t, exec (.cfgDlym c delayMs sampleRate) s = .next t ∧ Recorded 3 (0x31000000#32 + chBit c) s t ∧
        Built c { Slot.empty with kind := 0x10001#64, taps := 1#64 } s t)

/-- CFG.VOL: the gain is stored bit for bit, any pattern; a CURVE other than Linear is InvalidParameter
(45_volume_gain.md R150). -/
def Obligations.GainStageIsBuilt : Prop :=
  ∀ (c : Channel) (curve : Curve) (gain : F32) (s : State),
    encode (.cfgVol c curve gain) = [0x32000000#32 + ((curveCode curve).setWidth 32 <<< 20) + chBit c, gain] ∧
    CfgErrors (.cfgVol c curve gain) c (0x32000000#32 + ((curveCode curve).setWidth 32 <<< 20) + chBit c)
      (curve ≠ .linear) s ∧
    (CanBuild c s → curve = .linear → ∃ t, exec (.cfgVol c curve gain) s = .next t ∧
      Recorded 0 (0x32000000#32 + chBit c) s t ∧
      Built c { Slot.empty with kind := 2#64, gain := gain.setWidth 64 } s t)

/-- CFG.BQ.LP: the LowPass formula set on the intermediates, the ratios to a0, zero histories; the errors
(46_biquad_coefficients.md R160 to R163 and R164, whose formulas the spec gives from general knowledge, log 11). The
numbers up to the bits of a NaN. -/
def Obligations.LowPassSlotIsBuilt : Prop :=
  ∀ (c : Channel) (pkind : ParamKind) (ops : BiquadOperands) (s : State),
    let word0 := biquadWord 0#32 pkind c
    let al := Cookbook.alpha pkind ops
    let t := Cookbook.sub one64 (Cookbook.cs ops)
    encode (.cfgBqLp c pkind ops) = word0 :: biquadOperandWords ops ∧
    CfgErrors (.cfgBqLp c pkind ops) c word0 (kindNeitherQNorBandwidth pkind = true ∨ notAllPositive ops = true) s ∧
    (CanBuild c s → kindNeitherQNorBandwidth pkind = false → notAllPositive ops = false →
      BuildsBiquad (.cfgBqLp c pkind ops) c word0 (biquadKindWord 0#64 pkind)
        (Cookbook.div t two64) t (Cookbook.div t two64)
        (Cookbook.add one64 al) (Cookbook.minusTwoCos ops) (Cookbook.sub one64 al) s)

/-- CFG.BQ.HP: the HighPass formula set on the intermediates, the ratios to a0, zero histories; the errors
(46_biquad_coefficients.md R160 to R163 and R165, whose formulas the spec gives from general knowledge, log 11). The
numbers up to the bits of a NaN. -/
def Obligations.HighPassSlotIsBuilt : Prop :=
  ∀ (c : Channel) (pkind : ParamKind) (ops : BiquadOperands) (s : State),
    let word0 := biquadWord 1#32 pkind c
    let al := Cookbook.alpha pkind ops
    let t := Cookbook.add one64 (Cookbook.cs ops)
    encode (.cfgBqHp c pkind ops) = word0 :: biquadOperandWords ops ∧
    CfgErrors (.cfgBqHp c pkind ops) c word0 (kindNeitherQNorBandwidth pkind = true ∨ notAllPositive ops = true) s ∧
    (CanBuild c s → kindNeitherQNorBandwidth pkind = false → notAllPositive ops = false →
      BuildsBiquad (.cfgBqHp c pkind ops) c word0 (biquadKindWord 1#64 pkind)
        (Cookbook.div t two64) (f64Neg t) (Cookbook.div t two64)
        (Cookbook.add one64 al) (Cookbook.minusTwoCos ops) (Cookbook.sub one64 al) s)

/-- CFG.BQ.BP: the BandPass formula set on the intermediates, the ratios to a0, zero histories; the errors
(46_biquad_coefficients.md R160 to R163 and R166, whose formulas the spec gives from general knowledge, log 11). The
numbers up to the bits of a NaN. -/
def Obligations.BandPassSlotIsBuilt : Prop :=
  ∀ (c : Channel) (pkind : ParamKind) (ops : BiquadOperands) (s : State),
    let word0 := biquadWord 2#32 pkind c
    let al := Cookbook.alpha pkind ops
    encode (.cfgBqBp c pkind ops) = word0 :: biquadOperandWords ops ∧
    CfgErrors (.cfgBqBp c pkind ops) c word0 (kindNeitherQNorBandwidth pkind = true ∨ notAllPositive ops = true) s ∧
    (CanBuild c s → kindNeitherQNorBandwidth pkind = false → notAllPositive ops = false →
      BuildsBiquad (.cfgBqBp c pkind ops) c word0 (biquadKindWord 2#64 pkind)
        al 0#64 (f64Neg al)
        (Cookbook.add one64 al) (Cookbook.minusTwoCos ops) (Cookbook.sub one64 al) s)

/-- CFG.BQ.NOTCH: the Notch formula set on the intermediates, the ratios to a0, zero histories; the errors
(46_biquad_coefficients.md R160 to R163 and R167, whose formulas the spec gives from general knowledge, log 11). The
numbers up to the bits of a NaN. -/
def Obligations.NotchSlotIsBuilt : Prop :=
  ∀ (c : Channel) (pkind : ParamKind) (ops : BiquadOperands) (s : State),
    let word0 := biquadWord 3#32 pkind c
    let al := Cookbook.alpha pkind ops
    encode (.cfgBqNotch c pkind ops) = word0 :: biquadOperandWords ops ∧
    CfgErrors (.cfgBqNotch c pkind ops) c word0 (kindNeitherQNorBandwidth pkind = true ∨ notAllPositive ops = true) s ∧
    (CanBuild c s → kindNeitherQNorBandwidth pkind = false → notAllPositive ops = false →
      BuildsBiquad (.cfgBqNotch c pkind ops) c word0 (biquadKindWord 3#64 pkind)
        one64 (Cookbook.minusTwoCos ops) one64
        (Cookbook.add one64 al) (Cookbook.minusTwoCos ops) (Cookbook.sub one64 al) s)

/-- CFG.BQ.APK: the AudioPeak formula set on the intermediates, the ratios to a0, zero histories; the errors
(46_biquad_coefficients.md R160 to R163 and R168, whose formulas the spec gives from general knowledge, log 11). The
numbers up to the bits of a NaN. -/
def Obligations.AudioPeakSlotIsBuilt : Prop :=
  ∀ (c : Channel) (pkind : ParamKind) (ops : BiquadOperands) (s : State),
    let word0 := biquadWord 4#32 pkind c
    let al := Cookbook.alpha pkind ops
    let h := Cookbook.div (Cookbook.sn ops) two64
    encode (.cfgBqApk c pkind ops) = word0 :: biquadOperandWords ops ∧
    CfgErrors (.cfgBqApk c pkind ops) c word0 (kindNeitherQNorBandwidth pkind = true ∨ notAllPositive ops = true) s ∧
    (CanBuild c s → kindNeitherQNorBandwidth pkind = false → notAllPositive ops = false →
      BuildsBiquad (.cfgBqApk c pkind ops) c word0 (biquadKindWord 4#64 pkind)
        h 0#64 (f64Neg h)
        (Cookbook.add one64 al) (Cookbook.minusTwoCos ops) (Cookbook.sub one64 al) s)

/-- CFG.BQ.PEQ: the PeakingEq formula set on the intermediates, the ratios to a0, zero histories; the errors
(46_biquad_coefficients.md R160 to R163 and R169, whose formulas the spec gives from general knowledge, log 11). The
numbers up to the bits of a NaN. -/
def Obligations.PeakingEqSlotIsBuilt : Prop :=
  ∀ (c : Channel) (pkind : ParamKind) (ops : BiquadOperands) (s : State),
    let word0 := biquadWord 5#32 pkind c
    let al := Cookbook.alpha pkind ops
    let A := Cookbook.bigA ops
    encode (.cfgBqPeq c pkind ops) = word0 :: biquadOperandWords ops ∧
    CfgErrors (.cfgBqPeq c pkind ops) c word0 (kindNeitherQNorBandwidth pkind = true ∨ notAllPositive ops = true) s ∧
    (CanBuild c s → kindNeitherQNorBandwidth pkind = false → notAllPositive ops = false →
      BuildsBiquad (.cfgBqPeq c pkind ops) c word0 (biquadKindWord 5#64 pkind)
        (Cookbook.add one64 (Cookbook.mul al A)) (Cookbook.minusTwoCos ops) (Cookbook.sub one64 (Cookbook.mul al A))
        (Cookbook.add one64 (Cookbook.div al A)) (Cookbook.minusTwoCos ops) (Cookbook.sub one64 (Cookbook.div al A)) s)

/-- CFG.BQ.LS: the LowShelf formula set on the intermediates, the ratios to a0, zero histories; the errors
(46_biquad_coefficients.md R160 to R163 and R170, whose formulas the spec gives from general knowledge, log 11). The
numbers up to the bits of a NaN. -/
def Obligations.LowShelfSlotIsBuilt : Prop :=
  ∀ (c : Channel) (pkind : ParamKind) (ops : BiquadOperands) (s : State),
    let word0 := biquadWord 6#32 pkind c
    let A := Cookbook.bigA ops
    let cs := Cookbook.cs ops
    let r := Cookbook.r ops
    let p := Cookbook.p ops
    let m := Cookbook.m ops
    let u := Cookbook.u ops
    let v := Cookbook.v ops
    encode (.cfgBqLs c pkind ops) = word0 :: biquadOperandWords ops ∧
    CfgErrors (.cfgBqLs c pkind ops) c word0 (kindNotSlope pkind = true ∨ notAllPositive ops = true) s ∧
    (CanBuild c s → kindNotSlope pkind = false → notAllPositive ops = false →
      BuildsBiquad (.cfgBqLs c pkind ops) c word0 (biquadKindWord 6#64 pkind)
        (Cookbook.mul A (Cookbook.add u r))
        (Cookbook.mul (Cookbook.mul two64 A) (Cookbook.sub m (Cookbook.mul p cs)))
        (Cookbook.mul A (Cookbook.sub u r))
        (Cookbook.add v r)
        (f64Neg (Cookbook.mul two64 (Cookbook.add m (Cookbook.mul p cs))))
        (Cookbook.sub v r) s)

/-- CFG.BQ.HS: the HighShelf formula set on the intermediates, the ratios to a0, zero histories; the errors
(46_biquad_coefficients.md R160 to R163 and R171, whose formulas the spec gives from general knowledge, log 11). The
numbers up to the bits of a NaN. -/
def Obligations.HighShelfSlotIsBuilt : Prop :=
  ∀ (c : Channel) (pkind : ParamKind) (ops : BiquadOperands) (s : State),
    let word0 := biquadWord 7#32 pkind c
    let A := Cookbook.bigA ops
    let cs := Cookbook.cs ops
    let r := Cookbook.r ops
    let p := Cookbook.p ops
    let m := Cookbook.m ops
    let u := Cookbook.u ops
    let v := Cookbook.v ops
    encode (.cfgBqHs c pkind ops) = word0 :: biquadOperandWords ops ∧
    CfgErrors (.cfgBqHs c pkind ops) c word0 (kindNotSlope pkind = true ∨ notAllPositive ops = true) s ∧
    (CanBuild c s → kindNotSlope pkind = false → notAllPositive ops = false →
      BuildsBiquad (.cfgBqHs c pkind ops) c word0 (biquadKindWord 7#64 pkind)
        (Cookbook.mul A (Cookbook.add v r))
        (f64Neg (Cookbook.mul (Cookbook.mul two64 A) (Cookbook.add m (Cookbook.mul p cs))))
        (Cookbook.mul A (Cookbook.sub v r))
        (Cookbook.add u r)
        (Cookbook.mul two64 (Cookbook.sub m (Cookbook.mul p cs)))
        (Cookbook.sub u r) s)

/-! ## Errors, over all instructions -/

/-- Which code a packet ends with: the first condition that applies, in the order of the rule (60_exceptions.md R219). -/
def Obligations.ResultCodeFollowsThePriority : Prop :=
  ∀ (s : State) (w : Word) (operands : List Word) (rest : List HostAction), s.inbox = .packet w operands :: rest →
    ((∀ r, decode (w :: operands) = .error r → ∃ t, step s = .next t ∧ t.result = 4#32) ∧
     (∀ i, decode (w :: operands) = .ok i →
       ∃ t, step s = .next t ∧ t.result = BitVec.ofNat 32 (expectedCode i s)))

/-- The record of a command, and precise errors: RESULT always, the sticky flag and ERRWORD on a non-zero code; after an
error nothing else has changed but at most one chain, gone to FAILED by InvalidParameter or ChainFull; after CLRST and SRST
RESULT, STATUS and ERRWORD are 0; an illegal packet changes the record and nothing else (60_exceptions.md R220). -/
def Obligations.ErrorsArePrecise : Prop :=
  (∀ (i : Instr) (s : State), ∃ t, exec i s = .next t ∧
    (i = .clrst ∨ i = .srst → t.result = 0#32 ∧ t.status = 0#32 ∧ t.errword = 0#32) ∧
    (i ≠ .clrst → i ≠ .srst → Recorded (expectedCode i s) i.word0 s t) ∧
    (expectedCode i s = 1 ∨ expectedCode i s = 5 ∨ expectedCode i s = 7 → SameButRecord s t) ∧
    (expectedCode i s = 2 ∨ expectedCode i s = 6 →
      ∃ c, configuredChannel i = some c ∧ FailsChain (expectedCode i s) i.word0 c s t)) ∧
  ∀ (w : Word) (operands : List Word) (r : Reject) (s : State), decode (w :: operands) = .error r →
    ∃ t, runPacket w operands s = .next t ∧ OnlyRecorded 4 w s t

/-- No command reads STATUS, ERRWORD or RESULT: with another record it does the same, and only the record differs
(10_state.md R14, 60_exceptions.md R221). -/
def Obligations.NoCommandReadsTheRecord : Prop :=
  ∀ (i : Instr) (s : State) (status errword result : Word),
    ∃ t u, exec i s = .next t ∧
      exec i { s with status := status, errword := errword, result := result } = .next u ∧
      u.result = t.result ∧ { u with status := t.status, errword := t.errword } = t

/-- Who writes what: PCMIN and LEN_IN no command but SRST's zero to LEN_IN, ILV only DECODE and MERGE, CHc only SPLIT and
APPLY c, PCMOUT only ENCODE, the lengths only their writers and SRST, CAP nobody; the host's list and answers no command
(10_state.md R13, R17, R30). -/
def Obligations.EachMemoryHasItsWriters : Prop :=
  ∀ (i : Instr) (s t : State), exec i s = .next t →
    SameSurroundings s t ∧ SamePcmin s t ∧
    (i ≠ .decode → i ≠ .merge → SameIlv s t) ∧
    (∀ c, i ≠ .split → i ≠ .apply c → SameCh c s t) ∧
    (i ≠ .encode → SamePcmout s t) ∧
    (i ≠ .srst → t.lenIn = s.lenIn) ∧
    (i ≠ .srst → i ≠ .decode → i ≠ .merge → t.lenIlv = s.lenIlv) ∧
    (∀ c, i ≠ .srst → i ≠ .split → t.lenCh c = s.lenCh c) ∧
    (i ≠ .srst → i ≠ .encode → t.lenOut = s.lenOut) ∧
    (∀ c, i ≠ .srst → namedChannel i ≠ some c → SameChain c s t)

/-- A command for one channel neither reads nor writes the chain, the slots, the delay memories or the buffer of the other:
put anything there before it or after it, the outcome is the same (10_state.md section 4, 43_filter_chain.md section 1). -/
def Obligations.ChannelsAreIsolated : Prop :=
  ∀ (i : Instr) (c : Channel) (s : State), namedChannel i = some c →
    ∀ (chain : Chain) (delays : List (Nat × Cells 32)) (cells : Cells 32),
      ∃ t, exec i s = .next t ∧
        exec i (((s.setChain c.other chain).setDelays c.other delays).setChCells c.other cells) =
          .next (((t.setChain c.other chain).setDelays c.other delays).setChCells c.other cells)

/-! ## Invariants -/

/-- Every step keeps the canonical form of memory (log 4, log 7). -/
def Obligations.StepKeepsMemoryForm : Prop :=
  ∀ s t : State, s.mem.wf → step s = .next t → t.mem.wf

/-- Every step keeps both chains legal: NFILT at most NSLOT, the slots below NFILT built as one of the three kinds with
their fields in range and every other field zero, the rest EMPTY, delay memories within TAPS elements (10_state.md R18,
R22 to R25, R28, R29). -/
def Obligations.StepKeepsChainsLegal : Prop :=
  ∀ s t : State, (∀ c, s.ChainOk c) → step s = .next t → ∀ c, t.ChainOk c

/-- Every step keeps RESULT and STATUS in their ranges, the capacities, the elements of the buffer memories within them and
LEN_OUT within the capacity of PCMOUT (10_state.md R13 to R17, R30). -/
def Obligations.StepKeepsRanges : Prop :=
  ∀ s t : State, s.RecordOk ∧ s.CapacitiesOk ∧ s.BuffersOk ∧ s.LenOutOk → step s = .next t →
    t.RecordOk ∧ t.CapacitiesOk ∧ t.BuffersOk ∧ t.LenOutOk

/-- From reset, whatever the host does, no step stops and every state is legal (60_exceptions.md R210, R224, 10_state.md
sections 2 to 5; the host's list is the model's, log 1). -/
def Obligations.RunsFromResetAreSafe : Prop :=
  ∀ (actions : List HostAction) (n : Nat), SafeRun n { State.reset with inbox := actions }

/-! ## Arithmetic -/

/-- Rounding is to nearest, ties to even, subnormals kept, and overflow to infinity (40_numerics.md R85): no magnitude is
nearer to `num / den` than the result, an equally near one other than it leaves the result even, and from the value after
the largest finite one on the result is the infinity. -/
def Obligations.RoundingIsToNearestEven : Prop :=
  ∀ f : FloatFormat, f = binary32 ∨ f = binary64 → ∀ num den : Nat, 0 < den →
    roundMag f num den ≤ f.infMag ∧
    (num ≤ magUnits f f.infMag * den → ∀ k, k ≤ f.infMag →
      gap (magUnits f (roundMag f num den) * den) num ≤ gap (magUnits f k * den) num ∧
      (k ≠ roundMag f num den →
        gap (magUnits f (roundMag f num den) * den) num = gap (magUnits f k * den) num →
        roundMag f num den % 2 = 0)) ∧
    (magUnits f f.infMag * den ≤ num → roundMag f num den = f.infMag)

/-- The square root of a positive finite number is the nearest f64: the exact root lies between the midpoints to the two
neighbours (40_numerics.md R93, which the spec gives from general knowledge). In units of 2^-1074 the root of m units is
the root of m times 2^1074. -/
def Obligations.SquareRootIsNearest : Prop :=
  ∀ (free : BitVec 64) (a : F64) (m : Nat), value64 a = .fin false m → 0 < m →
    ∃ r, f64Sqrt free a = BitVec.ofNat 64 r ∧ 0 < r ∧ r < binary64.infMag ∧
      (magUnits binary64 (r - 1) + magUnits binary64 r) ^ 2 ≤ 4 * m * 2 ^ 1074 ∧
      4 * m * 2 ^ 1074 ≤ (magUnits binary64 r + magUnits binary64 (r + 1)) ^ 2

/-- The test `v > 0.0` of the coefficient unit passes exactly the patterns from the smallest subnormal number to +infinity:
a NaN, both zeros and every negative number fail it (46_biquad_coefficients.md R160, 40_numerics.md section 3). -/
def Obligations.PositivityTestIsExact : Prop :=
  ∀ a : F64, f64IsPositive a = true ↔ 0 < a.toNat ∧ a.toNat ≤ 0x7FF0000000000000

end BlockStatements
end

