-- ==== Sys2Proof/Laws/Cells.lean ====
section
/-! SUPPORT. What the cell operations do: a read after a write, and the canonical form they keep. -/

namespace Sys2Proof
namespace Machine

variable {α : Type}

@[simp] theorem lookupCell_nil (i : Nat) : lookupCell ([] : List (Nat × α)) i = none := rfl

/-- A read after a write: the value written at its index, every other index as before. -/
theorem lookupCell_storeCell (m : List (Nat × α)) (i j : Nat) (v : α) :
    lookupCell (storeCell m i v) j = if j = i then some v else lookupCell m j := by
  induction m with
  | nil => simp [storeCell, lookupCell]
  | cons p rest ih =>
    obtain ⟨n, u⟩ := p
    simp only [storeCell]
    split
    · simp [lookupCell]
    · split
      · subst_vars
        by_cases h : j = n <;> simp [lookupCell, h]
      · by_cases h : j = n
        · subst h
          simp [lookupCell]
          intro h'
          omega
        · simp [lookupCell, h, ih]

@[simp] theorem lookupCell_storeCell_self (m : List (Nat × α)) (i : Nat) (v : α) :
    lookupCell (storeCell m i v) i = some v := by simp [lookupCell_storeCell]

theorem lookupCell_storeCell_of_ne (m : List (Nat × α)) {i j : Nat} (v : α) (h : j ≠ i) :
    lookupCell (storeCell m i v) j = lookupCell m j := by simp [lookupCell_storeCell, h]

/-- A dropped entry is not listed; every other is as before. -/
theorem lookupCell_dropCell (m : List (Nat × α)) (i j : Nat) :
    lookupCell (dropCell m i) j = if j = i then none else lookupCell m j := by
  induction m with
  | nil => simp [dropCell]
  | cons p rest ih =>
    obtain ⟨n, u⟩ := p
    simp only [dropCell]
    split
    · subst_vars
      rw [ih]
      by_cases h : j = n <;> simp [lookupCell, h]
    · by_cases h : j = n
      · subst h
        simp [lookupCell]
        intro h'
        omega
      · simp [lookupCell, h, ih]

@[simp] theorem readOr_nil (d : α) (i : Nat) : readOr d [] i = d := rfl

/-- A read after a write, in a space with a default. -/
theorem readOr_storeOr [DecidableEq α] (d : α) (m : List (Nat × α)) (i j : Nat) (v : α) :
    readOr d (storeOr d m i v) j = if j = i then v else readOr d m j := by
  unfold readOr storeOr
  split
  · rw [lookupCell_dropCell]
    split <;> simp_all
  · rw [lookupCell_storeCell]
    split <;> simp_all

@[simp] theorem readOr_storeOr_self [DecidableEq α] (d : α) (m : List (Nat × α)) (i : Nat) (v : α) :
    readOr d (storeOr d m i v) i = v := by simp [readOr_storeOr]

theorem readOr_storeOr_of_ne [DecidableEq α] (d : α) (m : List (Nat × α)) {i j : Nat} (v : α) (h : j ≠ i) :
    readOr d (storeOr d m i v) j = readOr d m j := by simp [readOr_storeOr, h]

/-- A read after a loop of writes: inside the written range the value written, outside it as before. -/
theorem lookupCell_storeFrom (vs : List α) : ∀ (m : List (Nat × α)) (i j : Nat),
    lookupCell (storeFrom m i vs) j = if i ≤ j ∧ j < i + vs.length then vs[j - i]? else lookupCell m j := by
  induction vs with
  | nil => intro m i j; simp [storeFrom]
  | cons v vs ih =>
    intro m i j
    rw [storeFrom, ih, lookupCell_storeCell]
    by_cases h1 : i + 1 ≤ j ∧ j < i + 1 + vs.length
    · have h2 : i ≤ j ∧ j < i + (v :: vs).length := by simp only [List.length_cons]; omega
      rw [if_pos h1, if_pos h2]
      have h3 : j - i = (j - (i + 1)) + 1 := by omega
      rw [h3, List.getElem?_cons_succ]
    · rw [if_neg h1]
      by_cases h2 : j = i
      · subst h2; simp
      · have h3 : ¬(i ≤ j ∧ j < i + (v :: vs).length) := by simp only [List.length_cons]; omega
        rw [if_neg h2, if_neg h3]

@[simp] theorem elements_length (f : Nat → α) (n : Nat) : (elements f n).length = n := by simp [elements]

theorem elements_getElem? (f : Nat → α) (n i : Nat) :
    (elements f n)[i]? = if i < n then some (f i) else none := by
  unfold elements
  by_cases h : i < n <;> simp [h]

theorem elements_map {β : Type} (f : Nat → α) (g : α → β) (n : Nat) :
    (elements f n).map g = elements (fun i => g (f i)) n := by simp [elements, Function.comp_def]

/-- A read after a command's loop over the elements 0 to n - 1. -/
theorem lookupCell_storeFrom_elements (m : List (Nat × α)) (f : Nat → α) (n j : Nat) :
    lookupCell (storeFrom m 0 (elements f n)) j = if j < n then some (f j) else lookupCell m j := by
  simp only [lookupCell_storeFrom, elements_length, elements_getElem?, Nat.zero_le, true_and, Nat.zero_add, Nat.sub_zero]
  by_cases h : j < n <;> simp only [h, if_true, if_false]

/-! ## The canonical form is kept -/

theorem mem_storeCell {m : List (Nat × α)} {i : Nat} {v : α} {p : Nat × α} (h : p ∈ storeCell m i v) :
    p = (i, v) ∨ p ∈ m := by
  induction m with
  | nil => simp [storeCell] at h; exact Or.inl h
  | cons q rest ih =>
    obtain ⟨n, u⟩ := q
    simp only [storeCell] at h
    split at h
    · simpa using h
    · split at h
      · simp at h ⊢; tauto
      · simp at h ⊢
        rcases h with h | h
        · exact Or.inr (Or.inl h)
        · rcases ih h with h | h
          · exact Or.inl h
          · exact Or.inr (Or.inr h)

theorem mem_dropCell {m : List (Nat × α)} {i : Nat} {p : Nat × α} (h : p ∈ dropCell m i) : p ∈ m := by
  induction m with
  | nil => simp [dropCell] at h
  | cons q rest ih =>
    obtain ⟨n, u⟩ := q
    simp only [dropCell] at h
    split at h
    · exact List.mem_cons_of_mem _ (ih h)
    · simp at h ⊢
      exact h.imp id ih

theorem rising_storeCell {m : List (Nat × α)} (h : Rising m) (i : Nat) (v : α) : Rising (storeCell m i v) := by
  induction m with
  | nil => simp [storeCell, Rising]
  | cons q rest ih =>
    obtain ⟨n, u⟩ := q
    simp only [Rising, List.pairwise_cons] at h
    simp only [storeCell]
    split
    · rename_i hlt
      simp only [Rising, List.pairwise_cons, List.mem_cons]
      refine ⟨?_, h⟩
      rintro p (rfl | hp)
      · exact hlt
      · exact Nat.lt_trans hlt (h.1 p hp)
    · split
      · subst_vars
        simp only [Rising, List.pairwise_cons]
        exact h
      · rename_i h1 h2
        simp only [Rising, List.pairwise_cons]
        refine ⟨?_, ih h.2⟩
        intro p hp
        rcases mem_storeCell hp with rfl | hp
        · show n < i; omega
        · exact h.1 p hp

theorem rising_dropCell {m : List (Nat × α)} (h : Rising m) (i : Nat) : Rising (dropCell m i) := by
  induction m with
  | nil => simp [dropCell, Rising]
  | cons q rest ih =>
    obtain ⟨n, u⟩ := q
    simp only [Rising, List.pairwise_cons] at h
    simp only [dropCell]
    split
    · exact ih h.2
    · simp only [Rising, List.pairwise_cons]
      exact ⟨fun p hp => h.1 p (mem_dropCell hp), ih h.2⟩

theorem canonical_storeOr [DecidableEq α] {d : α} {m : List (Nat × α)} (h : Canonical d m) (i : Nat) (v : α) :
    Canonical d (storeOr d m i v) := by
  unfold storeOr
  split
  · exact ⟨rising_dropCell h.1 i, fun p hp => h.2 p (mem_dropCell hp)⟩
  · rename_i hv
    refine ⟨rising_storeCell h.1 i v, fun p hp => ?_⟩
    rcases mem_storeCell hp with rfl | hp
    · exact hv
    · exact h.2 p hp

theorem rising_storeFrom (vs : List α) : ∀ {m : List (Nat × α)} (_ : Rising m) (i : Nat), Rising (storeFrom m i vs) := by
  induction vs with
  | nil => intro m h i; exact h
  | cons v vs ih => intro m h i; exact ih (rising_storeCell h i v) (i + 1)

theorem mem_storeOr [DecidableEq α] {d : α} {m : List (Nat × α)} {i : Nat} {v : α} {p : Nat × α}
    (h : p ∈ storeOr d m i v) : p = (i, v) ∨ p ∈ m := by
  unfold storeOr at h
  split at h
  · exact Or.inr (mem_dropCell h)
  · exact mem_storeCell h

theorem canonical_nil (d : α) : Canonical d [] := ⟨List.Pairwise.nil, fun p hp => by simp at hp⟩

/-- What a rising list shows at an index is what it lists there. -/
theorem lookupCell_eq_some_iff {m : List (Nat × α)} (h : Rising m) (i : Nat) (v : α) :
    lookupCell m i = some v ↔ (i, v) ∈ m := by
  induction m with
  | nil => simp
  | cons q rest ih =>
    obtain ⟨n, u⟩ := q
    simp only [Rising, List.pairwise_cons] at h
    by_cases hi : i = n
    · subst hi
      simp only [lookupCell, if_true, List.mem_cons, Prod.mk.injEq, true_and]
      constructor
      · intro he; left; exact (Option.some.inj he).symm
      · rintro (rfl | hm)
        · rfl
        · exact absurd (h.1 _ hm) (Nat.lt_irrefl _)
    · simp [lookupCell, hi, ih h.2]

/-- Equal contents are equal data: two rising lists that list the same cells are the same list. -/
theorem rising_ext : ∀ {m n : List (Nat × α)} (_ : Rising m) (_ : Rising n)
    (_ : ∀ i, lookupCell m i = lookupCell n i), m = n := by
  intro m
  induction m with
  | nil =>
    intro n _ _ he
    cases n with
    | nil => rfl
    | cons q rest => simpa [lookupCell] using he q.1
  | cons p rest ih =>
    intro n hm hn he
    cases n with
    | nil => simpa [lookupCell] using he p.1
    | cons q rest' =>
      obtain ⟨a, u⟩ := p
      obtain ⟨b, w⟩ := q
      have hab : a = b := by
        have h1 := (lookupCell_eq_some_iff hn a u).mp (by rw [← he]; simp [lookupCell])
        have h2 := (lookupCell_eq_some_iff hm b w).mp (by rw [he]; simp [lookupCell])
        simp only [Rising, List.pairwise_cons] at hm hn
        simp only [List.mem_cons, Prod.mk.injEq] at h1 h2
        rcases h1 with h1 | h1
        · exact h1.1
        · rcases h2 with h2 | h2
          · exact h2.1.symm
          · have h3 := hn.1 _ h1
            have h4 := hm.1 _ h2
            simp only at h3 h4
            omega
      subst hab
      have huw : u = w := by have := he a; simpa [lookupCell] using this
      subst huw
      simp only [Rising, List.pairwise_cons] at hm hn
      have ht : rest = rest' := by
        apply ih hm.2 hn.2
        intro i
        by_cases hi : i = a
        · subst hi
          have e1 : ∀ {l : List (Nat × α)}, Rising l → (∀ p ∈ l, i < p.1) → lookupCell l i = none := by
            intro l hl hlt
            cases hc : lookupCell l i with
            | none => rfl
            | some v => exact absurd (hlt _ ((lookupCell_eq_some_iff hl i v).mp hc)) (Nat.lt_irrefl _)
          rw [e1 hm.2 hm.1, e1 hn.2 hn.1]
        · have := he i
          simpa [lookupCell, hi] using this
      rw [ht]

end Machine
end Sys2Proof
end

