-- ==== Sys2Proof/Laws/Decode.lean ====
section
/-! SUPPORT. The small lemmas of the encoding: the fields of a command word that is put together, and the two halves of a
64-bit operand. -/

namespace Sys2Proof

/-- A command word as a number. -/
theorem mkWord0_toNat (opc : BitVec 8) (sub pk : BitVec 4) (ch : BitVec 1) :
    (mkWord0 opc sub pk ch).toNat = opc.toNat * 2 ^ 24 + sub.toNat * 2 ^ 20 + pk.toNat * 2 ^ 16 + ch.toNat := by
  unfold mkWord0
  simp only [BitVec.toNat_append, BitVec.toNat_ofNat, Nat.shiftLeft_eq]
  have h1 := opc.isLt
  have h2 := sub.isLt
  have h3 := pk.isLt
  have h4 := ch.isLt
  rw [← Nat.shiftLeft_eq, ← Nat.shiftLeft_eq, ← Nat.shiftLeft_eq, ← Nat.shiftLeft_eq,
    ← Nat.shiftLeft_add_eq_or_of_lt h2, ← Nat.shiftLeft_add_eq_or_of_lt h3,
    ← Nat.shiftLeft_add_eq_or_of_lt (show 0 % 2 ^ 15 < 2 ^ 15 by decide), ← Nat.shiftLeft_add_eq_or_of_lt h4]
  simp only [Nat.shiftLeft_eq]
  omega

@[simp] theorem opcOf_mkWord0 (opc : BitVec 8) (sub pk : BitVec 4) (ch : BitVec 1) :
    opcOf (mkWord0 opc sub pk ch) = opc := by
  apply BitVec.eq_of_toNat_eq
  have h1 := opc.isLt
  have h2 := sub.isLt
  have h3 := pk.isLt
  have h4 := ch.isLt
  simp only [opcOf, BitVec.extractLsb'_toNat, mkWord0_toNat, Nat.shiftRight_eq_div_pow]
  omega

@[simp] theorem subOf_mkWord0 (opc : BitVec 8) (sub pk : BitVec 4) (ch : BitVec 1) :
    subOf (mkWord0 opc sub pk ch) = sub := by
  apply BitVec.eq_of_toNat_eq
  have h1 := opc.isLt
  have h2 := sub.isLt
  have h3 := pk.isLt
  have h4 := ch.isLt
  simp only [subOf, BitVec.extractLsb'_toNat, mkWord0_toNat, Nat.shiftRight_eq_div_pow]
  omega

@[simp] theorem pkOf_mkWord0 (opc : BitVec 8) (sub pk : BitVec 4) (ch : BitVec 1) :
    pkOf (mkWord0 opc sub pk ch) = pk := by
  apply BitVec.eq_of_toNat_eq
  have h1 := opc.isLt
  have h2 := sub.isLt
  have h3 := pk.isLt
  have h4 := ch.isLt
  simp only [pkOf, BitVec.extractLsb'_toNat, mkWord0_toNat, Nat.shiftRight_eq_div_pow]
  omega

@[simp] theorem zeroOf_mkWord0 (opc : BitVec 8) (sub pk : BitVec 4) (ch : BitVec 1) :
    zeroOf (mkWord0 opc sub pk ch) = 0#15 := by
  apply BitVec.eq_of_toNat_eq
  have h1 := opc.isLt
  have h2 := sub.isLt
  have h3 := pk.isLt
  have h4 := ch.isLt
  simp only [zeroOf, BitVec.extractLsb'_toNat, mkWord0_toNat, Nat.shiftRight_eq_div_pow, BitVec.toNat_ofNat]
  omega

@[simp] theorem chOf_mkWord0 (opc : BitVec 8) (sub pk : BitVec 4) (ch : BitVec 1) :
    chOf (mkWord0 opc sub pk ch) = ch := by
  apply BitVec.eq_of_toNat_eq
  have h1 := opc.isLt
  have h2 := sub.isLt
  have h3 := pk.isLt
  have h4 := ch.isLt
  simp only [chOf, BitVec.extractLsb'_toNat, mkWord0_toNat, Nat.shiftRight_eq_div_pow]
  omega

/-- A 64-bit operand as a number. -/
theorem operand64_toNat (lo hi : Word) : (operand64 lo hi).toNat = hi.toNat * 2 ^ 32 + lo.toNat := by
  unfold operand64
  have h := lo.isLt
  rw [BitVec.toNat_append, ← Nat.shiftLeft_add_eq_or_of_lt h, Nat.shiftLeft_eq]

@[simp] theorem loWord_operand64 (lo hi : Word) : loWord (operand64 lo hi) = lo := by
  apply BitVec.eq_of_toNat_eq
  have h1 := lo.isLt
  have h2 := hi.isLt
  simp only [loWord, BitVec.extractLsb'_toNat, operand64_toNat, Nat.shiftRight_eq_div_pow]
  omega

@[simp] theorem hiWord_operand64 (lo hi : Word) : hiWord (operand64 lo hi) = hi := by
  apply BitVec.eq_of_toNat_eq
  have h1 := lo.isLt
  have h2 := hi.isLt
  simp only [hiWord, BitVec.extractLsb'_toNat, operand64_toNat, Nat.shiftRight_eq_div_pow]
  omega

@[simp] theorem operand64_halves (v : F64) : operand64 (loWord v) (hiWord v) = v := by
  apply BitVec.eq_of_toNat_eq
  have h := v.isLt
  simp only [operand64_toNat, loWord, hiWord, BitVec.extractLsb'_toNat, Nat.shiftRight_eq_div_pow]
  omega

@[simp] theorem channelOfBit_bitOfChannel (c : Channel) : channelOfBit (bitOfChannel c) = c := by cases c <;> rfl

end Sys2Proof
end

