-- ==== Sys2Proof/Laws/Float.lean ====
section
/-! SUPPORT. The small lemmas of the arithmetic: which patterns are NaNs, and that a NaN operand gives a NaN whatever else
goes in (40_numerics.md R89). -/

namespace Sys2Proof
namespace Machine

/-- A value is a NaN exactly when its magnitude bits lie above those of an infinity. -/
theorem floatValue_eq_nan_iff (f : FloatFormat) (n : Nat) : floatValue f n = .nan ↔ f.infMag < n % f.signWeight := by
  unfold floatValue
  by_cases h : f.infMag < n % f.signWeight
  · simp [h]
  · by_cases h2 : n % f.signWeight = f.infMag <;> simp [h2, h]

theorem isNaN64_iff (a : F64) : isNaN64 a = true ↔ value64 a = .nan := by simp [isNaN64]

theorem isNaN32_iff (a : F32) : isNaN32 a = true ↔ value32 a = .nan := by simp [isNaN32]

/-- Every quiet NaN is a NaN. -/
@[simp] theorem value64_quietNaN64 (free : BitVec 64) : value64 (quietNaN64 free) = .nan := by
  unfold value64
  rw [floatValue_eq_nan_iff]
  have h1 : (quietNaN64 free) &&& 0x7FF8000000000000#64 = 0x7FF8000000000000#64 := by
    unfold quietNaN64
    ext i
    simp only [BitVec.getElem_and, BitVec.getElem_or]
    cases free[i] <;> simp
  have h2 : (quietNaN64 free).toNat % 2 ^ 63 &&& 0x7FF8000000000000 = 0x7FF8000000000000 := by
    have h3 := congrArg (fun v : BitVec 64 => v.toNat % 2 ^ 63) h1
    simp only [BitVec.toNat_and, BitVec.toNat_ofNat, Nat.and_mod_two_pow] at h3
    exact h3
  have h4 := Nat.and_le_left (n := (quietNaN64 free).toNat % 2 ^ 63) (m := 0x7FF8000000000000)
  have h5 : binary64.infMag = 0x7FF0000000000000 := by decide
  have h6 : binary64.signWeight = 2 ^ 63 := by decide
  rw [h5, h6]
  omega

/-- Every quiet NaN is a NaN. -/
@[simp] theorem value32_quietNaN32 (free : BitVec 64) : value32 (quietNaN32 free) = .nan := by
  unfold value32
  rw [floatValue_eq_nan_iff]
  have h1 : (quietNaN32 free) &&& 0x7FC00000#32 = 0x7FC00000#32 := by
    unfold quietNaN32
    generalize BitVec.setWidth 32 free = w
    ext i
    simp only [BitVec.getElem_and, BitVec.getElem_or]
    cases w[i] <;> simp
  have h2 : (quietNaN32 free).toNat % 2 ^ 31 &&& 0x7FC00000 = 0x7FC00000 := by
    have h3 := congrArg (fun v : BitVec 32 => v.toNat % 2 ^ 31) h1
    simp only [BitVec.toNat_and, BitVec.toNat_ofNat, Nat.and_mod_two_pow] at h3
    exact h3
  have h4 := Nat.and_le_left (n := (quietNaN32 free).toNat % 2 ^ 31) (m := 0x7FC00000)
  have h5 : binary32.infMag = 0x7F800000 := by decide
  have h6 : binary32.signWeight = 2 ^ 31 := by decide
  rw [h5, h6]
  omega

@[simp] theorem isNaN64_quietNaN64 (free : BitVec 64) : isNaN64 (quietNaN64 free) = true := by simp [isNaN64]

@[simp] theorem isNaN32_quietNaN32 (free : BitVec 64) : isNaN32 (quietNaN32 free) = true := by simp [isNaN32]

/-! ## A NaN operand gives a NaN -/

@[simp] theorem exactMul_nan_left (f : FloatFormat) (v : FloatValue) : exactMul f .nan v = .nan := by cases v <;> rfl
@[simp] theorem exactMul_nan_right (f : FloatFormat) (v : FloatValue) : exactMul f v .nan = .nan := by cases v <;> rfl
@[simp] theorem exactDiv_nan_left (f : FloatFormat) (v : FloatValue) : exactDiv f .nan v = .nan := by cases v <;> rfl
@[simp] theorem exactDiv_nan_right (f : FloatFormat) (v : FloatValue) : exactDiv f v .nan = .nan := by cases v <;> rfl
@[simp] theorem exactAdd_nan_left (v : FloatValue) : exactAdd .nan v = .nan := by cases v <;> rfl
@[simp] theorem exactAdd_nan_right (v : FloatValue) : exactAdd v .nan = .nan := by cases v <;> rfl
@[simp] theorem negate_nan : FloatValue.nan.negate = .nan := rfl

/-- What an operation delivers for the exact result NaN. -/
@[simp] theorem deliver64_nan (free : BitVec 64) : deliver64 free .nan = quietNaN64 free := rfl
@[simp] theorem deliver32_nan (free : BitVec 64) : deliver32 free .nan = quietNaN32 free := rfl

/-- The free value matters to a NaN result alone. -/
theorem deliver64_free (free free' : BitVec 64) {e : Exact} (h : e ≠ .nan) : deliver64 free e = deliver64 free' e := by
  cases e with
  | nan => exact absurd rfl h
  | inf _ => rfl
  | ratio _ _ _ => rfl

/-- The free value matters to a NaN result alone. -/
theorem deliver32_free (free free' : BitVec 64) {e : Exact} (h : e ≠ .nan) : deliver32 free e = deliver32 free' e := by
  cases e with
  | nan => exact absurd rfl h
  | inf _ => rfl
  | ratio _ _ _ => rfl

/-- P2 of R92: whatever the implementation's function gives, a NaN is delivered. -/
@[simp] theorem isNaN64_asNaN64 (a : F64) : isNaN64 (asNaN64 a) = true := by
  unfold asNaN64
  split
  · assumption
  · simp

end Machine
end Sys2Proof
end

