-- ==== Sys2Proof/Laws/State.lean ====
section
/-! SUPPORT. One lemma per field per state update: what each update leaves as it was, and what it sets. -/

namespace Sys2Proof
namespace Machine

variable (s : State)

/-! ## setChain -/

@[simp] theorem setChain_cap (c : Channel) (ch : Chain) : (s.setChain c ch).cap = s.cap := by cases c <;> rfl
@[simp] theorem setChain_status (c : Channel) (ch : Chain) : (s.setChain c ch).status = s.status := by cases c <;> rfl
@[simp] theorem setChain_result (c : Channel) (ch : Chain) : (s.setChain c ch).result = s.result := by cases c <;> rfl
@[simp] theorem setChain_errword (c : Channel) (ch : Chain) : (s.setChain c ch).errword = s.errword := by cases c <;> rfl
@[simp] theorem setChain_lenIn (c : Channel) (ch : Chain) : (s.setChain c ch).lenIn = s.lenIn := by cases c <;> rfl
@[simp] theorem setChain_lenIlv (c : Channel) (ch : Chain) : (s.setChain c ch).lenIlv = s.lenIlv := by cases c <;> rfl
@[simp] theorem setChain_lenCh0 (c : Channel) (ch : Chain) : (s.setChain c ch).lenCh0 = s.lenCh0 := by cases c <;> rfl
@[simp] theorem setChain_lenCh1 (c : Channel) (ch : Chain) : (s.setChain c ch).lenCh1 = s.lenCh1 := by cases c <;> rfl
@[simp] theorem setChain_lenOut (c : Channel) (ch : Chain) : (s.setChain c ch).lenOut = s.lenOut := by cases c <;> rfl
@[simp] theorem setChain_inbox (c : Channel) (ch : Chain) : (s.setChain c ch).inbox = s.inbox := by cases c <;> rfl
@[simp] theorem setChain_answers (c : Channel) (ch : Chain) : (s.setChain c ch).answers = s.answers := by cases c <;> rfl
@[simp] theorem setChain_freeTick (c : Channel) (ch : Chain) : (s.setChain c ch).freeTick = s.freeTick := by cases c <;> rfl
@[simp] theorem setChain_powerUps (c : Channel) (ch : Chain) : (s.setChain c ch).powerUps = s.powerUps := by cases c <;> rfl
@[simp] theorem setChain_nslot (c : Channel) (ch : Chain) : (s.setChain c ch).nslot = s.nslot := by cases c <;> rfl
@[simp] theorem setChain_maxf (c : Channel) (ch : Chain) : (s.setChain c ch).maxf = s.maxf := by cases c <;> rfl
@[simp] theorem setChain_lenCh (c : Channel) (ch : Chain) (c' : Channel) : (s.setChain c ch).lenCh c' = s.lenCh c' := by cases c <;> cases c' <;> rfl
@[simp] theorem setChain_mem (c : Channel) (ch : Chain) : (s.setChain c ch).mem = s.mem := by cases c <;> rfl
@[simp] theorem setChain_pcminAt (c : Channel) (ch : Chain) (i : Nat) : (s.setChain c ch).pcminAt i = s.pcminAt i := by cases c <;> rfl
@[simp] theorem setChain_ilvAt (c : Channel) (ch : Chain) (i : Nat) : (s.setChain c ch).ilvAt i = s.ilvAt i := by cases c <;> rfl
@[simp] theorem setChain_pcmoutAt (c : Channel) (ch : Chain) (i : Nat) : (s.setChain c ch).pcmoutAt i = s.pcmoutAt i := by cases c <;> rfl
@[simp] theorem setChain_chCells (c : Channel) (ch : Chain) (c' : Channel) : (s.setChain c ch).chCells c' = s.chCells c' := by cases c <;> cases c' <;> rfl
@[simp] theorem setChain_chAt (c : Channel) (ch : Chain) (c' : Channel) (i : Nat) : (s.setChain c ch).chAt c' i = s.chAt c' i := by cases c <;> cases c' <;> rfl
@[simp] theorem setChain_delays (c : Channel) (ch : Chain) (c' : Channel) : (s.setChain c ch).delays c' = s.delays c' := by cases c <;> cases c' <;> rfl
@[simp] theorem setChain_ring (c : Channel) (ch : Chain) (c' : Channel) (k' : Nat) : (s.setChain c ch).ring c' k' = s.ring c' k' := by cases c <;> cases c' <;> rfl

/-! ## setSlot -/

@[simp] theorem setSlot_cap (c : Channel) (k : Nat) (r : Slot) : (s.setSlot c k r).cap = s.cap := by cases c <;> rfl
@[simp] theorem setSlot_status (c : Channel) (k : Nat) (r : Slot) : (s.setSlot c k r).status = s.status := by cases c <;> rfl
@[simp] theorem setSlot_result (c : Channel) (k : Nat) (r : Slot) : (s.setSlot c k r).result = s.result := by cases c <;> rfl
@[simp] theorem setSlot_errword (c : Channel) (k : Nat) (r : Slot) : (s.setSlot c k r).errword = s.errword := by cases c <;> rfl
@[simp] theorem setSlot_lenIn (c : Channel) (k : Nat) (r : Slot) : (s.setSlot c k r).lenIn = s.lenIn := by cases c <;> rfl
@[simp] theorem setSlot_lenIlv (c : Channel) (k : Nat) (r : Slot) : (s.setSlot c k r).lenIlv = s.lenIlv := by cases c <;> rfl
@[simp] theorem setSlot_lenCh0 (c : Channel) (k : Nat) (r : Slot) : (s.setSlot c k r).lenCh0 = s.lenCh0 := by cases c <;> rfl
@[simp] theorem setSlot_lenCh1 (c : Channel) (k : Nat) (r : Slot) : (s.setSlot c k r).lenCh1 = s.lenCh1 := by cases c <;> rfl
@[simp] theorem setSlot_lenOut (c : Channel) (k : Nat) (r : Slot) : (s.setSlot c k r).lenOut = s.lenOut := by cases c <;> rfl
@[simp] theorem setSlot_inbox (c : Channel) (k : Nat) (r : Slot) : (s.setSlot c k r).inbox = s.inbox := by cases c <;> rfl
@[simp] theorem setSlot_answers (c : Channel) (k : Nat) (r : Slot) : (s.setSlot c k r).answers = s.answers := by cases c <;> rfl
@[simp] theorem setSlot_freeTick (c : Channel) (k : Nat) (r : Slot) : (s.setSlot c k r).freeTick = s.freeTick := by cases c <;> rfl
@[simp] theorem setSlot_powerUps (c : Channel) (k : Nat) (r : Slot) : (s.setSlot c k r).powerUps = s.powerUps := by cases c <;> rfl
@[simp] theorem setSlot_nslot (c : Channel) (k : Nat) (r : Slot) : (s.setSlot c k r).nslot = s.nslot := by cases c <;> rfl
@[simp] theorem setSlot_maxf (c : Channel) (k : Nat) (r : Slot) : (s.setSlot c k r).maxf = s.maxf := by cases c <;> rfl
@[simp] theorem setSlot_lenCh (c : Channel) (k : Nat) (r : Slot) (c' : Channel) : (s.setSlot c k r).lenCh c' = s.lenCh c' := by cases c <;> cases c' <;> rfl
@[simp] theorem setSlot_mem (c : Channel) (k : Nat) (r : Slot) : (s.setSlot c k r).mem = s.mem := by cases c <;> rfl
@[simp] theorem setSlot_pcminAt (c : Channel) (k : Nat) (r : Slot) (i : Nat) : (s.setSlot c k r).pcminAt i = s.pcminAt i := by cases c <;> rfl
@[simp] theorem setSlot_ilvAt (c : Channel) (k : Nat) (r : Slot) (i : Nat) : (s.setSlot c k r).ilvAt i = s.ilvAt i := by cases c <;> rfl
@[simp] theorem setSlot_pcmoutAt (c : Channel) (k : Nat) (r : Slot) (i : Nat) : (s.setSlot c k r).pcmoutAt i = s.pcmoutAt i := by cases c <;> rfl
@[simp] theorem setSlot_chCells (c : Channel) (k : Nat) (r : Slot) (c' : Channel) : (s.setSlot c k r).chCells c' = s.chCells c' := by cases c <;> cases c' <;> rfl
@[simp] theorem setSlot_chAt (c : Channel) (k : Nat) (r : Slot) (c' : Channel) (i : Nat) : (s.setSlot c k r).chAt c' i = s.chAt c' i := by cases c <;> cases c' <;> rfl
@[simp] theorem setSlot_delays (c : Channel) (k : Nat) (r : Slot) (c' : Channel) : (s.setSlot c k r).delays c' = s.delays c' := by cases c <;> cases c' <;> rfl
@[simp] theorem setSlot_ring (c : Channel) (k : Nat) (r : Slot) (c' : Channel) (k' : Nat) : (s.setSlot c k r).ring c' k' = s.ring c' k' := by cases c <;> cases c' <;> rfl

/-! ## setDelays -/

@[simp] theorem setDelays_cap (c : Channel) (d : List (Nat × Cells 32)) : (s.setDelays c d).cap = s.cap := by cases c <;> rfl
@[simp] theorem setDelays_status (c : Channel) (d : List (Nat × Cells 32)) : (s.setDelays c d).status = s.status := by cases c <;> rfl
@[simp] theorem setDelays_result (c : Channel) (d : List (Nat × Cells 32)) : (s.setDelays c d).result = s.result := by cases c <;> rfl
@[simp] theorem setDelays_errword (c : Channel) (d : List (Nat × Cells 32)) : (s.setDelays c d).errword = s.errword := by cases c <;> rfl
@[simp] theorem setDelays_lenIn (c : Channel) (d : List (Nat × Cells 32)) : (s.setDelays c d).lenIn = s.lenIn := by cases c <;> rfl
@[simp] theorem setDelays_lenIlv (c : Channel) (d : List (Nat × Cells 32)) : (s.setDelays c d).lenIlv = s.lenIlv := by cases c <;> rfl
@[simp] theorem setDelays_lenCh0 (c : Channel) (d : List (Nat × Cells 32)) : (s.setDelays c d).lenCh0 = s.lenCh0 := by cases c <;> rfl
@[simp] theorem setDelays_lenCh1 (c : Channel) (d : List (Nat × Cells 32)) : (s.setDelays c d).lenCh1 = s.lenCh1 := by cases c <;> rfl
@[simp] theorem setDelays_lenOut (c : Channel) (d : List (Nat × Cells 32)) : (s.setDelays c d).lenOut = s.lenOut := by cases c <;> rfl
@[simp] theorem setDelays_inbox (c : Channel) (d : List (Nat × Cells 32)) : (s.setDelays c d).inbox = s.inbox := by cases c <;> rfl
@[simp] theorem setDelays_answers (c : Channel) (d : List (Nat × Cells 32)) : (s.setDelays c d).answers = s.answers := by cases c <;> rfl
@[simp] theorem setDelays_freeTick (c : Channel) (d : List (Nat × Cells 32)) : (s.setDelays c d).freeTick = s.freeTick := by cases c <;> rfl
@[simp] theorem setDelays_powerUps (c : Channel) (d : List (Nat × Cells 32)) : (s.setDelays c d).powerUps = s.powerUps := by cases c <;> rfl
@[simp] theorem setDelays_nslot (c : Channel) (d : List (Nat × Cells 32)) : (s.setDelays c d).nslot = s.nslot := by cases c <;> rfl
@[simp] theorem setDelays_maxf (c : Channel) (d : List (Nat × Cells 32)) : (s.setDelays c d).maxf = s.maxf := by cases c <;> rfl
@[simp] theorem setDelays_lenCh (c : Channel) (d : List (Nat × Cells 32)) (c' : Channel) : (s.setDelays c d).lenCh c' = s.lenCh c' := by cases c <;> cases c' <;> rfl
@[simp] theorem setDelays_pcminAt (c : Channel) (d : List (Nat × Cells 32)) (i : Nat) : (s.setDelays c d).pcminAt i = s.pcminAt i := by cases c <;> rfl
@[simp] theorem setDelays_ilvAt (c : Channel) (d : List (Nat × Cells 32)) (i : Nat) : (s.setDelays c d).ilvAt i = s.ilvAt i := by cases c <;> rfl
@[simp] theorem setDelays_pcmoutAt (c : Channel) (d : List (Nat × Cells 32)) (i : Nat) : (s.setDelays c d).pcmoutAt i = s.pcmoutAt i := by cases c <;> rfl
@[simp] theorem setDelays_chCells (c : Channel) (d : List (Nat × Cells 32)) (c' : Channel) : (s.setDelays c d).chCells c' = s.chCells c' := by cases c <;> cases c' <;> rfl
@[simp] theorem setDelays_chAt (c : Channel) (d : List (Nat × Cells 32)) (c' : Channel) (i : Nat) : (s.setDelays c d).chAt c' i = s.chAt c' i := by cases c <;> cases c' <;> rfl
@[simp] theorem setDelays_chain (c : Channel) (d : List (Nat × Cells 32)) (c' : Channel) : (s.setDelays c d).chain c' = s.chain c' := by cases c <;> cases c' <;> rfl
@[simp] theorem setDelays_slot (c : Channel) (d : List (Nat × Cells 32)) (c' : Channel) (k' : Nat) : (s.setDelays c d).slot c' k' = s.slot c' k' := by cases c <;> cases c' <;> rfl

/-! ## setRing -/

@[simp] theorem setRing_cap (c : Channel) (k : Nat) (r : Cells 32) : (s.setRing c k r).cap = s.cap := by cases c <;> rfl
@[simp] theorem setRing_status (c : Channel) (k : Nat) (r : Cells 32) : (s.setRing c k r).status = s.status := by cases c <;> rfl
@[simp] theorem setRing_result (c : Channel) (k : Nat) (r : Cells 32) : (s.setRing c k r).result = s.result := by cases c <;> rfl
@[simp] theorem setRing_errword (c : Channel) (k : Nat) (r : Cells 32) : (s.setRing c k r).errword = s.errword := by cases c <;> rfl
@[simp] theorem setRing_lenIn (c : Channel) (k : Nat) (r : Cells 32) : (s.setRing c k r).lenIn = s.lenIn := by cases c <;> rfl
@[simp] theorem setRing_lenIlv (c : Channel) (k : Nat) (r : Cells 32) : (s.setRing c k r).lenIlv = s.lenIlv := by cases c <;> rfl
@[simp] theorem setRing_lenCh0 (c : Channel) (k : Nat) (r : Cells 32) : (s.setRing c k r).lenCh0 = s.lenCh0 := by cases c <;> rfl
@[simp] theorem setRing_lenCh1 (c : Channel) (k : Nat) (r : Cells 32) : (s.setRing c k r).lenCh1 = s.lenCh1 := by cases c <;> rfl
@[simp] theorem setRing_lenOut (c : Channel) (k : Nat) (r : Cells 32) : (s.setRing c k r).lenOut = s.lenOut := by cases c <;> rfl
@[simp] theorem setRing_inbox (c : Channel) (k : Nat) (r : Cells 32) : (s.setRing c k r).inbox = s.inbox := by cases c <;> rfl
@[simp] theorem setRing_answers (c : Channel) (k : Nat) (r : Cells 32) : (s.setRing c k r).answers = s.answers := by cases c <;> rfl
@[simp] theorem setRing_freeTick (c : Channel) (k : Nat) (r : Cells 32) : (s.setRing c k r).freeTick = s.freeTick := by cases c <;> rfl
@[simp] theorem setRing_powerUps (c : Channel) (k : Nat) (r : Cells 32) : (s.setRing c k r).powerUps = s.powerUps := by cases c <;> rfl
@[simp] theorem setRing_nslot (c : Channel) (k : Nat) (r : Cells 32) : (s.setRing c k r).nslot = s.nslot := by cases c <;> rfl
@[simp] theorem setRing_maxf (c : Channel) (k : Nat) (r : Cells 32) : (s.setRing c k r).maxf = s.maxf := by cases c <;> rfl
@[simp] theorem setRing_lenCh (c : Channel) (k : Nat) (r : Cells 32) (c' : Channel) : (s.setRing c k r).lenCh c' = s.lenCh c' := by cases c <;> cases c' <;> rfl
@[simp] theorem setRing_pcminAt (c : Channel) (k : Nat) (r : Cells 32) (i : Nat) : (s.setRing c k r).pcminAt i = s.pcminAt i := by cases c <;> rfl
@[simp] theorem setRing_ilvAt (c : Channel) (k : Nat) (r : Cells 32) (i : Nat) : (s.setRing c k r).ilvAt i = s.ilvAt i := by cases c <;> rfl
@[simp] theorem setRing_pcmoutAt (c : Channel) (k : Nat) (r : Cells 32) (i : Nat) : (s.setRing c k r).pcmoutAt i = s.pcmoutAt i := by cases c <;> rfl
@[simp] theorem setRing_chCells (c : Channel) (k : Nat) (r : Cells 32) (c' : Channel) : (s.setRing c k r).chCells c' = s.chCells c' := by cases c <;> cases c' <;> rfl
@[simp] theorem setRing_chAt (c : Channel) (k : Nat) (r : Cells 32) (c' : Channel) (i : Nat) : (s.setRing c k r).chAt c' i = s.chAt c' i := by cases c <;> cases c' <;> rfl
@[simp] theorem setRing_chain (c : Channel) (k : Nat) (r : Cells 32) (c' : Channel) : (s.setRing c k r).chain c' = s.chain c' := by cases c <;> cases c' <;> rfl
@[simp] theorem setRing_slot (c : Channel) (k : Nat) (r : Cells 32) (c' : Channel) (k' : Nat) : (s.setRing c k r).slot c' k' = s.slot c' k' := by cases c <;> cases c' <;> rfl

/-! ## setChCells -/

@[simp] theorem setChCells_cap (c : Channel) (m : Cells 32) : (s.setChCells c m).cap = s.cap := by cases c <;> rfl
@[simp] theorem setChCells_status (c : Channel) (m : Cells 32) : (s.setChCells c m).status = s.status := by cases c <;> rfl
@[simp] theorem setChCells_result (c : Channel) (m : Cells 32) : (s.setChCells c m).result = s.result := by cases c <;> rfl
@[simp] theorem setChCells_errword (c : Channel) (m : Cells 32) : (s.setChCells c m).errword = s.errword := by cases c <;> rfl
@[simp] theorem setChCells_lenIn (c : Channel) (m : Cells 32) : (s.setChCells c m).lenIn = s.lenIn := by cases c <;> rfl
@[simp] theorem setChCells_lenIlv (c : Channel) (m : Cells 32) : (s.setChCells c m).lenIlv = s.lenIlv := by cases c <;> rfl
@[simp] theorem setChCells_lenCh0 (c : Channel) (m : Cells 32) : (s.setChCells c m).lenCh0 = s.lenCh0 := by cases c <;> rfl
@[simp] theorem setChCells_lenCh1 (c : Channel) (m : Cells 32) : (s.setChCells c m).lenCh1 = s.lenCh1 := by cases c <;> rfl
@[simp] theorem setChCells_lenOut (c : Channel) (m : Cells 32) : (s.setChCells c m).lenOut = s.lenOut := by cases c <;> rfl
@[simp] theorem setChCells_inbox (c : Channel) (m : Cells 32) : (s.setChCells c m).inbox = s.inbox := by cases c <;> rfl
@[simp] theorem setChCells_answers (c : Channel) (m : Cells 32) : (s.setChCells c m).answers = s.answers := by cases c <;> rfl
@[simp] theorem setChCells_freeTick (c : Channel) (m : Cells 32) : (s.setChCells c m).freeTick = s.freeTick := by cases c <;> rfl
@[simp] theorem setChCells_powerUps (c : Channel) (m : Cells 32) : (s.setChCells c m).powerUps = s.powerUps := by cases c <;> rfl
@[simp] theorem setChCells_nslot (c : Channel) (m : Cells 32) : (s.setChCells c m).nslot = s.nslot := by cases c <;> rfl
@[simp] theorem setChCells_maxf (c : Channel) (m : Cells 32) : (s.setChCells c m).maxf = s.maxf := by cases c <;> rfl
@[simp] theorem setChCells_lenCh (c : Channel) (m : Cells 32) (c' : Channel) : (s.setChCells c m).lenCh c' = s.lenCh c' := by cases c <;> cases c' <;> rfl
@[simp] theorem setChCells_pcminAt (c : Channel) (m : Cells 32) (i : Nat) : (s.setChCells c m).pcminAt i = s.pcminAt i := by cases c <;> rfl
@[simp] theorem setChCells_ilvAt (c : Channel) (m : Cells 32) (i : Nat) : (s.setChCells c m).ilvAt i = s.ilvAt i := by cases c <;> rfl
@[simp] theorem setChCells_pcmoutAt (c : Channel) (m : Cells 32) (i : Nat) : (s.setChCells c m).pcmoutAt i = s.pcmoutAt i := by cases c <;> rfl
@[simp] theorem setChCells_delays (c : Channel) (m : Cells 32) (c' : Channel) : (s.setChCells c m).delays c' = s.delays c' := by cases c <;> cases c' <;> rfl
@[simp] theorem setChCells_ring (c : Channel) (m : Cells 32) (c' : Channel) (k' : Nat) : (s.setChCells c m).ring c' k' = s.ring c' k' := by cases c <;> cases c' <;> rfl
@[simp] theorem setChCells_chain (c : Channel) (m : Cells 32) (c' : Channel) : (s.setChCells c m).chain c' = s.chain c' := by cases c <;> cases c' <;> rfl
@[simp] theorem setChCells_slot (c : Channel) (m : Cells 32) (c' : Channel) (k' : Nat) : (s.setChCells c m).slot c' k' = s.slot c' k' := by cases c <;> cases c' <;> rfl

/-! ## complete -/

@[simp] theorem complete_cap (code : ResultCode) (w : Word) : (s.complete code w).cap = s.cap := by unfold State.complete; split <;> rfl
@[simp] theorem complete_lenIn (code : ResultCode) (w : Word) : (s.complete code w).lenIn = s.lenIn := by unfold State.complete; split <;> rfl
@[simp] theorem complete_lenIlv (code : ResultCode) (w : Word) : (s.complete code w).lenIlv = s.lenIlv := by unfold State.complete; split <;> rfl
@[simp] theorem complete_lenCh0 (code : ResultCode) (w : Word) : (s.complete code w).lenCh0 = s.lenCh0 := by unfold State.complete; split <;> rfl
@[simp] theorem complete_lenCh1 (code : ResultCode) (w : Word) : (s.complete code w).lenCh1 = s.lenCh1 := by unfold State.complete; split <;> rfl
@[simp] theorem complete_lenOut (code : ResultCode) (w : Word) : (s.complete code w).lenOut = s.lenOut := by unfold State.complete; split <;> rfl
@[simp] theorem complete_inbox (code : ResultCode) (w : Word) : (s.complete code w).inbox = s.inbox := by unfold State.complete; split <;> rfl
@[simp] theorem complete_answers (code : ResultCode) (w : Word) : (s.complete code w).answers = s.answers := by unfold State.complete; split <;> rfl
@[simp] theorem complete_powerUps (code : ResultCode) (w : Word) : (s.complete code w).powerUps = s.powerUps := by unfold State.complete; split <;> rfl
@[simp] theorem complete_nslot (code : ResultCode) (w : Word) : (s.complete code w).nslot = s.nslot := by unfold State.complete; split <;> rfl
@[simp] theorem complete_maxf (code : ResultCode) (w : Word) : (s.complete code w).maxf = s.maxf := by unfold State.complete; split <;> rfl
@[simp] theorem complete_lenCh (code : ResultCode) (w : Word) (c' : Channel) : (s.complete code w).lenCh c' = s.lenCh c' := by unfold State.complete; split <;> cases c' <;> rfl
@[simp] theorem complete_mem (code : ResultCode) (w : Word) : (s.complete code w).mem = s.mem := by unfold State.complete; split <;> rfl
@[simp] theorem complete_pcminAt (code : ResultCode) (w : Word) (i : Nat) : (s.complete code w).pcminAt i = s.pcminAt i := by unfold State.complete; split <;> rfl
@[simp] theorem complete_ilvAt (code : ResultCode) (w : Word) (i : Nat) : (s.complete code w).ilvAt i = s.ilvAt i := by unfold State.complete; split <;> rfl
@[simp] theorem complete_pcmoutAt (code : ResultCode) (w : Word) (i : Nat) : (s.complete code w).pcmoutAt i = s.pcmoutAt i := by unfold State.complete; split <;> rfl
@[simp] theorem complete_chCells (code : ResultCode) (w : Word) (c' : Channel) : (s.complete code w).chCells c' = s.chCells c' := by unfold State.complete; split <;> cases c' <;> rfl
@[simp] theorem complete_chAt (code : ResultCode) (w : Word) (c' : Channel) (i : Nat) : (s.complete code w).chAt c' i = s.chAt c' i := by unfold State.complete; split <;> cases c' <;> rfl
@[simp] theorem complete_delays (code : ResultCode) (w : Word) (c' : Channel) : (s.complete code w).delays c' = s.delays c' := by unfold State.complete; split <;> cases c' <;> rfl
@[simp] theorem complete_ring (code : ResultCode) (w : Word) (c' : Channel) (k' : Nat) : (s.complete code w).ring c' k' = s.ring c' k' := by unfold State.complete; split <;> cases c' <;> rfl
@[simp] theorem complete_chain (code : ResultCode) (w : Word) (c' : Channel) : (s.complete code w).chain c' = s.chain c' := by unfold State.complete; split <;> cases c' <;> rfl
@[simp] theorem complete_slot (code : ResultCode) (w : Word) (c' : Channel) (k' : Nat) : (s.complete code w).slot c' k' = s.slot c' k' := by unfold State.complete; split <;> cases c' <;> rfl

/-! ## clearRecord -/

@[simp] theorem clearRecord_cap : (s.clearRecord).cap = s.cap := rfl
@[simp] theorem clearRecord_result : (s.clearRecord).result = s.result := rfl
@[simp] theorem clearRecord_lenIn : (s.clearRecord).lenIn = s.lenIn := rfl
@[simp] theorem clearRecord_lenIlv : (s.clearRecord).lenIlv = s.lenIlv := rfl
@[simp] theorem clearRecord_lenCh0 : (s.clearRecord).lenCh0 = s.lenCh0 := rfl
@[simp] theorem clearRecord_lenCh1 : (s.clearRecord).lenCh1 = s.lenCh1 := rfl
@[simp] theorem clearRecord_lenOut : (s.clearRecord).lenOut = s.lenOut := rfl
@[simp] theorem clearRecord_inbox : (s.clearRecord).inbox = s.inbox := rfl
@[simp] theorem clearRecord_answers : (s.clearRecord).answers = s.answers := rfl
@[simp] theorem clearRecord_freeTick : (s.clearRecord).freeTick = s.freeTick := rfl
@[simp] theorem clearRecord_powerUps : (s.clearRecord).powerUps = s.powerUps := rfl
@[simp] theorem clearRecord_nslot : (s.clearRecord).nslot = s.nslot := rfl
@[simp] theorem clearRecord_maxf : (s.clearRecord).maxf = s.maxf := rfl
@[simp] theorem clearRecord_lenCh (c' : Channel) : (s.clearRecord).lenCh c' = s.lenCh c' := by cases c' <;> rfl
@[simp] theorem clearRecord_mem : (s.clearRecord).mem = s.mem := rfl
@[simp] theorem clearRecord_pcminAt (i : Nat) : (s.clearRecord).pcminAt i = s.pcminAt i := rfl
@[simp] theorem clearRecord_ilvAt (i : Nat) : (s.clearRecord).ilvAt i = s.ilvAt i := rfl
@[simp] theorem clearRecord_pcmoutAt (i : Nat) : (s.clearRecord).pcmoutAt i = s.pcmoutAt i := rfl
@[simp] theorem clearRecord_chCells (c' : Channel) : (s.clearRecord).chCells c' = s.chCells c' := by cases c' <;> rfl
@[simp] theorem clearRecord_chAt (c' : Channel) (i : Nat) : (s.clearRecord).chAt c' i = s.chAt c' i := by cases c' <;> rfl
@[simp] theorem clearRecord_delays (c' : Channel) : (s.clearRecord).delays c' = s.delays c' := by cases c' <;> rfl
@[simp] theorem clearRecord_ring (c' : Channel) (k' : Nat) : (s.clearRecord).ring c' k' = s.ring c' k' := by cases c' <;> rfl
@[simp] theorem clearRecord_chain (c' : Channel) : (s.clearRecord).chain c' = s.chain c' := by cases c' <;> rfl
@[simp] theorem clearRecord_slot (c' : Channel) (k' : Nat) : (s.clearRecord).slot c' k' = s.slot c' k' := by cases c' <;> rfl

/-! ## failChain -/

@[simp] theorem failChain_cap (c : Channel) : (s.failChain c).cap = s.cap := by cases c <;> rfl
@[simp] theorem failChain_status (c : Channel) : (s.failChain c).status = s.status := by cases c <;> rfl
@[simp] theorem failChain_result (c : Channel) : (s.failChain c).result = s.result := by cases c <;> rfl
@[simp] theorem failChain_errword (c : Channel) : (s.failChain c).errword = s.errword := by cases c <;> rfl
@[simp] theorem failChain_lenIn (c : Channel) : (s.failChain c).lenIn = s.lenIn := by cases c <;> rfl
@[simp] theorem failChain_lenIlv (c : Channel) : (s.failChain c).lenIlv = s.lenIlv := by cases c <;> rfl
@[simp] theorem failChain_lenCh0 (c : Channel) : (s.failChain c).lenCh0 = s.lenCh0 := by cases c <;> rfl
@[simp] theorem failChain_lenCh1 (c : Channel) : (s.failChain c).lenCh1 = s.lenCh1 := by cases c <;> rfl
@[simp] theorem failChain_lenOut (c : Channel) : (s.failChain c).lenOut = s.lenOut := by cases c <;> rfl
@[simp] theorem failChain_inbox (c : Channel) : (s.failChain c).inbox = s.inbox := by cases c <;> rfl
@[simp] theorem failChain_answers (c : Channel) : (s.failChain c).answers = s.answers := by cases c <;> rfl
@[simp] theorem failChain_freeTick (c : Channel) : (s.failChain c).freeTick = s.freeTick := by cases c <;> rfl
@[simp] theorem failChain_powerUps (c : Channel) : (s.failChain c).powerUps = s.powerUps := by cases c <;> rfl
@[simp] theorem failChain_nslot (c : Channel) : (s.failChain c).nslot = s.nslot := by cases c <;> rfl
@[simp] theorem failChain_maxf (c : Channel) : (s.failChain c).maxf = s.maxf := by cases c <;> rfl
@[simp] theorem failChain_lenCh (c : Channel) (c' : Channel) : (s.failChain c).lenCh c' = s.lenCh c' := by cases c <;> cases c' <;> rfl
@[simp] theorem failChain_mem (c : Channel) : (s.failChain c).mem = s.mem := by cases c <;> rfl
@[simp] theorem failChain_pcminAt (c : Channel) (i : Nat) : (s.failChain c).pcminAt i = s.pcminAt i := by cases c <;> rfl
@[simp] theorem failChain_ilvAt (c : Channel) (i : Nat) : (s.failChain c).ilvAt i = s.ilvAt i := by cases c <;> rfl
@[simp] theorem failChain_pcmoutAt (c : Channel) (i : Nat) : (s.failChain c).pcmoutAt i = s.pcmoutAt i := by cases c <;> rfl
@[simp] theorem failChain_chCells (c : Channel) (c' : Channel) : (s.failChain c).chCells c' = s.chCells c' := by cases c <;> cases c' <;> rfl
@[simp] theorem failChain_chAt (c : Channel) (c' : Channel) (i : Nat) : (s.failChain c).chAt c' i = s.chAt c' i := by cases c <;> cases c' <;> rfl
@[simp] theorem failChain_delays (c : Channel) (c' : Channel) : (s.failChain c).delays c' = s.delays c' := by cases c <;> cases c' <;> rfl
@[simp] theorem failChain_ring (c : Channel) (c' : Channel) (k' : Nat) : (s.failChain c).ring c' k' = s.ring c' k' := by cases c <;> cases c' <;> rfl

/-! ## clearChain -/

@[simp] theorem clearChain_cap (c : Channel) : (s.clearChain c).cap = s.cap := by cases c <;> rfl
@[simp] theorem clearChain_status (c : Channel) : (s.clearChain c).status = s.status := by cases c <;> rfl
@[simp] theorem clearChain_result (c : Channel) : (s.clearChain c).result = s.result := by cases c <;> rfl
@[simp] theorem clearChain_errword (c : Channel) : (s.clearChain c).errword = s.errword := by cases c <;> rfl
@[simp] theorem clearChain_lenIn (c : Channel) : (s.clearChain c).lenIn = s.lenIn := by cases c <;> rfl
@[simp] theorem clearChain_lenIlv (c : Channel) : (s.clearChain c).lenIlv = s.lenIlv := by cases c <;> rfl
@[simp] theorem clearChain_lenCh0 (c : Channel) : (s.clearChain c).lenCh0 = s.lenCh0 := by cases c <;> rfl
@[simp] theorem clearChain_lenCh1 (c : Channel) : (s.clearChain c).lenCh1 = s.lenCh1 := by cases c <;> rfl
@[simp] theorem clearChain_lenOut (c : Channel) : (s.clearChain c).lenOut = s.lenOut := by cases c <;> rfl
@[simp] theorem clearChain_inbox (c : Channel) : (s.clearChain c).inbox = s.inbox := by cases c <;> rfl
@[simp] theorem clearChain_answers (c : Channel) : (s.clearChain c).answers = s.answers := by cases c <;> rfl
@[simp] theorem clearChain_freeTick (c : Channel) : (s.clearChain c).freeTick = s.freeTick := by cases c <;> rfl
@[simp] theorem clearChain_powerUps (c : Channel) : (s.clearChain c).powerUps = s.powerUps := by cases c <;> rfl
@[simp] theorem clearChain_nslot (c : Channel) : (s.clearChain c).nslot = s.nslot := by cases c <;> rfl
@[simp] theorem clearChain_maxf (c : Channel) : (s.clearChain c).maxf = s.maxf := by cases c <;> rfl
@[simp] theorem clearChain_lenCh (c : Channel) (c' : Channel) : (s.clearChain c).lenCh c' = s.lenCh c' := by cases c <;> cases c' <;> rfl
@[simp] theorem clearChain_pcminAt (c : Channel) (i : Nat) : (s.clearChain c).pcminAt i = s.pcminAt i := by cases c <;> rfl
@[simp] theorem clearChain_ilvAt (c : Channel) (i : Nat) : (s.clearChain c).ilvAt i = s.ilvAt i := by cases c <;> rfl
@[simp] theorem clearChain_pcmoutAt (c : Channel) (i : Nat) : (s.clearChain c).pcmoutAt i = s.pcmoutAt i := by cases c <;> rfl
@[simp] theorem clearChain_chCells (c : Channel) (c' : Channel) : (s.clearChain c).chCells c' = s.chCells c' := by cases c <;> cases c' <;> rfl
@[simp] theorem clearChain_chAt (c : Channel) (c' : Channel) (i : Nat) : (s.clearChain c).chAt c' i = s.chAt c' i := by cases c <;> cases c' <;> rfl

/-! ## cfgCommit -/

@[simp] theorem cfgCommit_cap (c : Channel) (k : Nat) (r : Slot) : (s.cfgCommit c k r).cap = s.cap := by cases c <;> rfl
@[simp] theorem cfgCommit_status (c : Channel) (k : Nat) (r : Slot) : (s.cfgCommit c k r).status = s.status := by cases c <;> rfl
@[simp] theorem cfgCommit_result (c : Channel) (k : Nat) (r : Slot) : (s.cfgCommit c k r).result = s.result := by cases c <;> rfl
@[simp] theorem cfgCommit_errword (c : Channel) (k : Nat) (r : Slot) : (s.cfgCommit c k r).errword = s.errword := by cases c <;> rfl
@[simp] theorem cfgCommit_lenIn (c : Channel) (k : Nat) (r : Slot) : (s.cfgCommit c k r).lenIn = s.lenIn := by cases c <;> rfl
@[simp] theorem cfgCommit_lenIlv (c : Channel) (k : Nat) (r : Slot) : (s.cfgCommit c k r).lenIlv = s.lenIlv := by cases c <;> rfl
@[simp] theorem cfgCommit_lenCh0 (c : Channel) (k : Nat) (r : Slot) : (s.cfgCommit c k r).lenCh0 = s.lenCh0 := by cases c <;> rfl
@[simp] theorem cfgCommit_lenCh1 (c : Channel) (k : Nat) (r : Slot) : (s.cfgCommit c k r).lenCh1 = s.lenCh1 := by cases c <;> rfl
@[simp] theorem cfgCommit_lenOut (c : Channel) (k : Nat) (r : Slot) : (s.cfgCommit c k r).lenOut = s.lenOut := by cases c <;> rfl
@[simp] theorem cfgCommit_inbox (c : Channel) (k : Nat) (r : Slot) : (s.cfgCommit c k r).inbox = s.inbox := by cases c <;> rfl
@[simp] theorem cfgCommit_answers (c : Channel) (k : Nat) (r : Slot) : (s.cfgCommit c k r).answers = s.answers := by cases c <;> rfl
@[simp] theorem cfgCommit_freeTick (c : Channel) (k : Nat) (r : Slot) : (s.cfgCommit c k r).freeTick = s.freeTick := by cases c <;> rfl
@[simp] theorem cfgCommit_powerUps (c : Channel) (k : Nat) (r : Slot) : (s.cfgCommit c k r).powerUps = s.powerUps := by cases c <;> rfl
@[simp] theorem cfgCommit_nslot (c : Channel) (k : Nat) (r : Slot) : (s.cfgCommit c k r).nslot = s.nslot := by cases c <;> rfl
@[simp] theorem cfgCommit_maxf (c : Channel) (k : Nat) (r : Slot) : (s.cfgCommit c k r).maxf = s.maxf := by cases c <;> rfl
@[simp] theorem cfgCommit_lenCh (c : Channel) (k : Nat) (r : Slot) (c' : Channel) : (s.cfgCommit c k r).lenCh c' = s.lenCh c' := by cases c <;> cases c' <;> rfl
@[simp] theorem cfgCommit_pcminAt (c : Channel) (k : Nat) (r : Slot) (i : Nat) : (s.cfgCommit c k r).pcminAt i = s.pcminAt i := by cases c <;> rfl
@[simp] theorem cfgCommit_ilvAt (c : Channel) (k : Nat) (r : Slot) (i : Nat) : (s.cfgCommit c k r).ilvAt i = s.ilvAt i := by cases c <;> rfl
@[simp] theorem cfgCommit_pcmoutAt (c : Channel) (k : Nat) (r : Slot) (i : Nat) : (s.cfgCommit c k r).pcmoutAt i = s.pcmoutAt i := by cases c <;> rfl
@[simp] theorem cfgCommit_chCells (c : Channel) (k : Nat) (r : Slot) (c' : Channel) : (s.cfgCommit c k r).chCells c' = s.chCells c' := by cases c <;> cases c' <;> rfl
@[simp] theorem cfgCommit_chAt (c : Channel) (k : Nat) (r : Slot) (c' : Channel) (i : Nat) : (s.cfgCommit c k r).chAt c' i = s.chAt c' i := by cases c <;> cases c' <;> rfl

/-! ## warmReset -/

@[simp] theorem warmReset_cap : (s.warmReset).cap = s.cap := rfl
@[simp] theorem warmReset_inbox : (s.warmReset).inbox = s.inbox := rfl
@[simp] theorem warmReset_answers : (s.warmReset).answers = s.answers := rfl
@[simp] theorem warmReset_freeTick : (s.warmReset).freeTick = s.freeTick := rfl
@[simp] theorem warmReset_powerUps : (s.warmReset).powerUps = s.powerUps := rfl
@[simp] theorem warmReset_nslot : (s.warmReset).nslot = s.nslot := rfl
@[simp] theorem warmReset_maxf : (s.warmReset).maxf = s.maxf := rfl
@[simp] theorem warmReset_pcminAt (i : Nat) : (s.warmReset).pcminAt i = s.pcminAt i := rfl
@[simp] theorem warmReset_ilvAt (i : Nat) : (s.warmReset).ilvAt i = s.ilvAt i := rfl
@[simp] theorem warmReset_pcmoutAt (i : Nat) : (s.warmReset).pcmoutAt i = s.pcmoutAt i := rfl
@[simp] theorem warmReset_chCells (c' : Channel) : (s.warmReset).chCells c' = s.chCells c' := by cases c' <;> rfl
@[simp] theorem warmReset_chAt (c' : Channel) (i : Nat) : (s.warmReset).chAt c' i = s.chAt c' i := by cases c' <;> rfl

/-! ## What the updates set -/

@[simp] theorem setChain_chain_self (c : Channel) (ch : Chain) : (s.setChain c ch).chain c = ch := by cases c <;> rfl

theorem setChain_chain (c c' : Channel) (ch : Chain) :
    (s.setChain c ch).chain c' = if c' = c then ch else s.chain c' := by cases c <;> cases c' <;> rfl

@[simp] theorem setChain_chain_other (c : Channel) (ch : Chain) :
    (s.setChain c ch).chain c.other = s.chain c.other := by cases c <;> rfl

theorem setSlot_slot (c c' : Channel) (k k' : Nat) (r : Slot) :
    (s.setSlot c k r).slot c' k' = if c' = c ∧ k' = k then r else s.slot c' k' := by
  unfold State.slot State.setSlot
  rw [setChain_chain]
  by_cases h : c' = c
  · subst h
    simp [readOr_storeOr]
  · simp [h]

@[simp] theorem setSlot_slot_self (c : Channel) (k : Nat) (r : Slot) : (s.setSlot c k r).slot c k = r := by
  simp [setSlot_slot]

@[simp] theorem setSlot_phase (c c' : Channel) (k : Nat) (r : Slot) :
    ((s.setSlot c k r).chain c').phase = (s.chain c').phase := by cases c <;> cases c' <;> rfl

@[simp] theorem setSlot_nfilt (c c' : Channel) (k : Nat) (r : Slot) :
    ((s.setSlot c k r).chain c').nfilt = (s.chain c').nfilt := by cases c <;> cases c' <;> rfl

@[simp] theorem setSlot_chain_other (c : Channel) (k : Nat) (r : Slot) :
    (s.setSlot c k r).chain c.other = s.chain c.other := by cases c <;> rfl

@[simp] theorem setDelays_delays_self (c : Channel) (d : List (Nat × Cells 32)) :
    (s.setDelays c d).delays c = d := by cases c <;> rfl

theorem setDelays_delays (c c' : Channel) (d : List (Nat × Cells 32)) :
    (s.setDelays c d).delays c' = if c' = c then d else s.delays c' := by cases c <;> cases c' <;> rfl

theorem setRing_ring (c c' : Channel) (k k' : Nat) (r : Cells 32) :
    (s.setRing c k r).ring c' k' = if c' = c ∧ k' = k then r else s.ring c' k' := by
  unfold State.ring State.setRing
  rw [setDelays_delays]
  by_cases h : c' = c
  · subst h
    simp [readOr_storeOr]
  · simp [h]

@[simp] theorem setRing_ring_self (c : Channel) (k : Nat) (r : Cells 32) : (s.setRing c k r).ring c k = r := by
  simp [setRing_ring]

@[simp] theorem setRing_delays_other (c : Channel) (k : Nat) (r : Cells 32) :
    (s.setRing c k r).delays c.other = s.delays c.other := by cases c <;> rfl

@[simp] theorem setChCells_chCells_self (c : Channel) (m : Cells 32) : (s.setChCells c m).chCells c = m := by
  cases c <;> rfl

theorem setChCells_chCells (c c' : Channel) (m : Cells 32) :
    (s.setChCells c m).chCells c' = if c' = c then m else s.chCells c' := by cases c <;> cases c' <;> rfl

@[simp] theorem failChain_phase_self (c : Channel) : ((s.failChain c).chain c).phase = .failed := by cases c <;> rfl

@[simp] theorem failChain_nfilt (c c' : Channel) : ((s.failChain c).chain c').nfilt = (s.chain c').nfilt := by
  cases c <;> cases c' <;> rfl

@[simp] theorem failChain_slot (c c' : Channel) (k : Nat) : (s.failChain c).slot c' k = s.slot c' k := by
  cases c <;> cases c' <;> rfl

@[simp] theorem failChain_chain_other (c : Channel) : (s.failChain c).chain c.other = s.chain c.other := by
  cases c <;> rfl

@[simp] theorem clearChain_chain_self (c : Channel) : (s.clearChain c).chain c = Chain.initial := by cases c <;> rfl

@[simp] theorem clearChain_chain_other (c : Channel) : (s.clearChain c).chain c.other = s.chain c.other := by
  cases c <;> rfl

@[simp] theorem clearChain_slot_self (c : Channel) (k : Nat) : (s.clearChain c).slot c k = Slot.empty := by
  cases c <;> rfl

@[simp] theorem clearChain_delays_self (c : Channel) : (s.clearChain c).delays c = [] := by cases c <;> rfl

@[simp] theorem clearChain_delays_other (c : Channel) : (s.clearChain c).delays c.other = s.delays c.other := by
  cases c <;> rfl

@[simp] theorem complete_result (code : ResultCode) (w : Word) : (s.complete code w).result = code.word := by
  unfold State.complete; split <;> rfl

@[simp] theorem complete_freeTick (code : ResultCode) (w : Word) :
    (s.complete code w).freeTick = s.freeTick + 1 := by unfold State.complete; split <;> rfl

/-- STATUS after completion: the flag of a non-zero code joins it, whatever the code. -/
theorem complete_status (code : ResultCode) (w : Word) : (s.complete code w).status = s.status ||| code.flag := by
  unfold State.complete
  split
  · subst_vars; simp [ResultCode.flag]
  · rfl

theorem complete_errword (code : ResultCode) (w : Word) :
    (s.complete code w).errword = if code = .ok then s.errword else w := by
  unfold State.complete; split <;> rfl

@[simp] theorem complete_ok_status (w : Word) : (s.complete .ok w).status = s.status := rfl

@[simp] theorem complete_ok_errword (w : Word) : (s.complete .ok w).errword = s.errword := rfl

@[simp] theorem clearRecord_status : s.clearRecord.status = 0#32 := rfl

@[simp] theorem clearRecord_errword : s.clearRecord.errword = 0#32 := rfl

@[simp] theorem warmReset_chain (c : Channel) : s.warmReset.chain c = Chain.initial := by cases c <;> rfl

@[simp] theorem warmReset_slot (c : Channel) (k : Nat) : s.warmReset.slot c k = Slot.empty := by cases c <;> rfl

@[simp] theorem warmReset_delays (c : Channel) : s.warmReset.delays c = [] := by cases c <;> rfl

@[simp] theorem warmReset_lenCh (c : Channel) : s.warmReset.lenCh c = 0#32 := by cases c <;> rfl

/-! ## What `cfg_commit` sets -/

theorem cfgCommit_slot (c c' : Channel) (k k' : Nat) (r : Slot) :
    (s.cfgCommit c k r).slot c' k' = if c' = c ∧ k' = k then r else s.slot c' k' := by
  have h : (s.cfgCommit c k r).slot c' k' = (s.setSlot c k r).slot c' k' := by cases c <;> cases c' <;> rfl
  rw [h, setSlot_slot]

@[simp] theorem cfgCommit_slot_self (c : Channel) (k : Nat) (r : Slot) : (s.cfgCommit c k r).slot c k = r := by
  simp [cfgCommit_slot]

theorem cfgCommit_ring (c c' : Channel) (k k' : Nat) (r : Slot) :
    (s.cfgCommit c k r).ring c' k' = if c' = c ∧ k' = k then [] else s.ring c' k' := by
  have h : (s.cfgCommit c k r).ring c' k' = ((s.setSlot c k r).setRing c k []).ring c' k' := by
    cases c <;> cases c' <;> rfl
  rw [h, setRing_ring]
  simp

@[simp] theorem cfgCommit_nfilt_self (c : Channel) (k : Nat) (r : Slot) :
    ((s.cfgCommit c k r).chain c).nfilt = BitVec.ofNat 8 (k + 1) := by cases c <;> rfl

@[simp] theorem cfgCommit_phase (c c' : Channel) (k : Nat) (r : Slot) :
    ((s.cfgCommit c k r).chain c').phase = (s.chain c').phase := by cases c <;> cases c' <;> rfl

@[simp] theorem cfgCommit_chain_other (c : Channel) (k : Nat) (r : Slot) :
    (s.cfgCommit c k r).chain c.other = s.chain c.other := by cases c <;> rfl

@[simp] theorem cfgCommit_delays_other (c : Channel) (k : Nat) (r : Slot) :
    (s.cfgCommit c k r).delays c.other = s.delays c.other := by cases c <;> rfl

/-! ## The two channels -/

@[simp] theorem other_ne (c : Channel) : c.other ≠ c := by cases c <;> simp [Channel.other]

@[simp] theorem other_other (c : Channel) : c.other.other = c := by cases c <;> rfl

theorem eq_or_eq_other (c c' : Channel) : c' = c ∨ c' = c.other := by cases c <;> cases c' <;> simp [Channel.other]

end Machine
end Sys2Proof
end

