-- ==== Sys2Proof/Laws/Ops.lean ====
section
/-! SUPPORT. One lemma per shared operation that says once everything it can do, and the canonical form of memory kept by
every memory operation. -/

namespace Sys2Proof
namespace Machine

variable (s : State)

/-! ## `cfg_begin` (R125) -/

/-- Everything `cfg_begin` can do. -/
theorem cfgBegin_cases (c : Channel) (w : Word) (build : Nat → State) :
    ((s.chain c).phase ≠ .opened ∧ s.cfgBegin c w build = s.complete .chainState w) ∨
    ((s.chain c).phase = .opened ∧ (s.chain c).nfilt = s.nslot ∧
      s.cfgBegin c w build = (s.failChain c).complete .chainFull w) ∨
    ((s.chain c).phase = .opened ∧ (s.chain c).nfilt ≠ s.nslot ∧
      s.cfgBegin c w build = build (s.chain c).nfilt.toNat) := by
  unfold State.cfgBegin
  split
  · exact Or.inl ⟨‹_›, rfl⟩
  · split
    · exact Or.inr (Or.inl ⟨by simp_all, ‹_›, rfl⟩)
    · exact Or.inr (Or.inr ⟨by simp_all, ‹_›, rfl⟩)

theorem cfgBegin_open {c : Channel} (w : Word) (build : Nat → State) (ho : (s.chain c).phase = .opened)
    (hn : (s.chain c).nfilt ≠ s.nslot) : s.cfgBegin c w build = build (s.chain c).nfilt.toNat := by
  simp [State.cfgBegin, ho, hn]

/-- Everything CFG.BQ can do once the chain takes it (R160, R163). -/
theorem configureBiquad_cases (type : ResponseType)
    (formulas : (Nat → BitVec 64) → BiquadTerms → RawCoefficients)
    (c : Channel) (pkind : ParamKind) (ops : BiquadOperands) (w : Word) :
    ((s.chain c).phase ≠ .opened ∧ s.configureBiquad type formulas c pkind ops w = s.complete .chainState w) ∨
    ((s.chain c).phase = .opened ∧ (s.chain c).nfilt = s.nslot ∧
      s.configureBiquad type formulas c pkind ops w = (s.failChain c).complete .chainFull w) ∨
    ((s.chain c).phase = .opened ∧ (s.chain c).nfilt ≠ s.nslot ∧ biquadOperandsValid type pkind ops = false ∧
      s.configureBiquad type formulas c pkind ops w = s.cfgFail c w) ∨
    ((s.chain c).phase = .opened ∧ (s.chain c).nfilt ≠ s.nslot ∧ biquadOperandsValid type pkind ops = true ∧
      s.configureBiquad type formulas c pkind ops w =
        (s.cfgCommit c (s.chain c).nfilt.toNat
          (biquadSlot s.configFree type pkind (formulas s.configFree (biquadTerms s.configFree pkind ops)))).complete
          .ok w) := by
  unfold State.configureBiquad
  rcases cfgBegin_cases s c w (fun k =>
    if biquadOperandsValid type pkind ops then
      (s.cfgCommit c k (biquadSlot s.configFree type pkind
        (formulas s.configFree (biquadTerms s.configFree pkind ops)))).complete .ok w
    else s.cfgFail c w) with h | h | ⟨h1, h2, h3⟩
  · exact Or.inl h
  · exact Or.inr (Or.inl h)
  · right; right
    by_cases hv : biquadOperandsValid type pkind ops = true
    · exact Or.inr ⟨h1, h2, hv, by rw [h3, if_pos hv]⟩
    · exact Or.inl ⟨h1, h2, by simpa using hv, by rw [h3, if_neg hv]⟩

/-! ## The steps of a chain (R120, R124) -/

/-- One sample in gives one sample out (R120). -/
@[simp] theorem runFilter_length (free : Nat → Nat → BitVec 64) (xs : List F32) :
    ∀ (i : Nat) (st : FilterState), (runFilter free i st xs).1.length = xs.length := by
  induction xs with
  | nil => intro i st; rfl
  | cons x xs ih => intro i st; simp [runFilter, ih]

/-- Two buffers one after the other are one long buffer: the state carries over (R120). -/
theorem runFilter_append (free : Nat → Nat → BitVec 64) (xs ys : List F32) :
    ∀ (i : Nat) (st : FilterState),
      runFilter free i st (xs ++ ys) =
        ((runFilter free i st xs).1 ++ (runFilter free (i + xs.length) (runFilter free i st xs).2 ys).1,
         (runFilter free (i + xs.length) (runFilter free i st xs).2 ys).2) := by
  induction xs with
  | nil => intro i st; rfl
  | cons x xs ih =>
    intro i st
    simp only [List.cons_append, runFilter, ih, List.length_cons, Nat.add_assoc, Nat.add_comm 1]

/-- Everything a step leaves of the slot's construction: KIND, TAPS, GAIN and the coefficients never change. -/
theorem stepFilter_keeps (free : Nat → BitVec 64) (st : FilterState) (x : F32) :
    let r := (stepFilter free st x).2.1
    r.kind = st.1.kind ∧ r.taps = st.1.taps ∧ r.gain = st.1.gain ∧
    r.b0 = st.1.b0 ∧ r.b1 = st.1.b1 ∧ r.b2 = st.1.b2 ∧ r.a0 = st.1.a0 ∧ r.a1 = st.1.a1 ∧ r.a2 = st.1.a2 ∧
    r.n0 = st.1.n0 ∧ r.n1 = st.1.n1 ∧ r.n2 = st.1.n2 ∧ r.n3 = st.1.n3 ∧ r.n4 = st.1.n4 := by
  unfold stepFilter
  split <;> simp [stepDelay, stepBiquad]

/-! ## The canonical form of memory -/

theorem reset_memory_wf : State.reset.mem.wf := by decide

theorem unwritten_wf : Memory.unwritten.wf := by decide

theorem setChain_wf {s : State} (h : s.mem.wf) (c : Channel) (ch : Chain) : (s.setChain c ch).mem.wf := by
  simpa using h

theorem setChCells_wf {s : State} (h : s.mem.wf) (c : Channel) {m : Cells 32} (hm : Rising m) :
    (s.setChCells c m).mem.wf := by
  obtain ⟨h1, h2, h3, h4, h5, h6, h7⟩ := h
  cases c
  · exact ⟨h1, h2, hm, h4, h5, h6, h7⟩
  · exact ⟨h1, h2, h3, hm, h5, h6, h7⟩

theorem rising_chCells {s : State} (h : s.mem.wf) (c : Channel) : Rising (s.chCells c) := by
  obtain ⟨_, _, h3, h4, _, _, _⟩ := h
  cases c
  · exact h3
  · exact h4

theorem storeChCells_wf {s : State} (h : s.mem.wf) (c : Channel) (i : Nat) (vs : List F32) :
    (s.setChCells c (storeFrom (s.chCells c) i vs)).mem.wf :=
  setChCells_wf h c (rising_storeFrom vs (rising_chCells h c) i)

theorem storeIlv_wf {m : Memory} (h : m.wf) (i : Nat) (vs : List F32) :
    Memory.wf { m with ilv := storeFrom m.ilv i vs } := by
  obtain ⟨h1, h2, h3⟩ := h
  exact ⟨h1, rising_storeFrom vs h2 i, h3⟩

theorem storePcmout_wf {m : Memory} (h : m.wf) (i : Nat) (vs : List Pcm16) :
    Memory.wf { m with pcmout := storeFrom m.pcmout i vs } := by
  obtain ⟨h1, h2, h3, h4, h5, h6⟩ := h
  exact ⟨h1, h2, h3, h4, rising_storeFrom vs h5 i, h6⟩

theorem storeChannels_wf {m : Memory} (h : m.wf) (i : Nat) (us vs : List F32) :
    Memory.wf { m with ch0 := storeFrom m.ch0 i us, ch1 := storeFrom m.ch1 i vs } := by
  obtain ⟨h1, h2, h3, h4, h5⟩ := h
  exact ⟨h1, h2, rising_storeFrom us h3 i, rising_storeFrom vs h4 i, h5⟩

theorem canonical_delays {s : State} (h : s.mem.wf) (c : Channel) :
    Canonical [] (s.delays c) ∧ ∀ p ∈ s.delays c, Canonical 0#32 p.2 := by
  obtain ⟨_, _, _, _, _, h6, h7⟩ := h
  cases c
  · exact h6
  · exact h7

theorem setDelays_wf {s : State} (h : s.mem.wf) (c : Channel) {d : List (Nat × Cells 32)}
    (hd : Canonical [] d ∧ ∀ p ∈ d, Canonical 0#32 p.2) : (s.setDelays c d).mem.wf := by
  obtain ⟨h1, h2, h3, h4, h5, h6, h7⟩ := h
  cases c
  · exact ⟨h1, h2, h3, h4, h5, hd, h7⟩
  · exact ⟨h1, h2, h3, h4, h5, h6, hd⟩

theorem setRing_wf {s : State} (h : s.mem.wf) (c : Channel) (k : Nat) {r : Cells 32} (hr : Canonical 0#32 r) :
    (s.setRing c k r).mem.wf := by
  have hd := canonical_delays h c
  refine setDelays_wf h c ⟨canonical_storeOr hd.1 k r, fun p hp => ?_⟩
  rcases mem_storeOr hp with rfl | hp
  · exact hr
  · exact hd.2 p hp

/-- The delay memory a slot shows is canonical. -/
theorem canonical_ring {s : State} (h : s.mem.wf) (c : Channel) (k : Nat) : Canonical 0#32 (s.ring c k) := by
  have hd := canonical_delays h c
  unfold State.ring readOr
  cases hk : lookupCell (s.delays c) k with
  | none => exact canonical_nil 0#32
  | some r => exact hd.2 _ ((lookupCell_eq_some_iff hd.1.1 k r).mp hk)

theorem complete_wf {s : State} (h : s.mem.wf) (code : ResultCode) (w : Word) : (s.complete code w).mem.wf := by
  simpa using h

theorem clearChain_wf {s : State} (h : s.mem.wf) (c : Channel) : (s.clearChain c).mem.wf :=
  setDelays_wf (setChain_wf h c _) c ⟨canonical_nil [], fun _ hp => nomatch hp⟩

theorem cfgCommit_wf {s : State} (h : s.mem.wf) (c : Channel) (k : Nat) (r : Slot) :
    (s.cfgCommit c k r).mem.wf :=
  setChain_wf (setRing_wf (by simpa using h) c k (canonical_nil 0#32)) c _

theorem warmReset_wf {s : State} (h : s.mem.wf) : s.warmReset.mem.wf := by
  obtain ⟨h1, h2, h3, h4, h5, _, _⟩ := h
  exact ⟨h1, h2, h3, h4, h5, ⟨canonical_nil [], fun _ hp => nomatch hp⟩,
    ⟨canonical_nil [], fun _ hp => nomatch hp⟩⟩

theorem hostWrite_wf {s : State} (h : s.mem.wf) (w : HostWrite) : (s.hostWrite w).mem.wf := by
  obtain ⟨h1, h2, h3, h4, h5, h6⟩ := id h
  cases w with
  | reg i v =>
    simp only [State.hostWrite, State.writeReg]
    split <;> exact h
  | slot c k f v => exact h
  | pcmin i v =>
    simp only [State.hostWrite]
    split
    · exact ⟨rising_storeCell h1 i v, h2, h3, h4, h5, h6⟩
    · exact h
  | ilv i v =>
    simp only [State.hostWrite]
    split
    · exact ⟨h1, rising_storeCell h2 i v, h3, h4, h5, h6⟩
    · exact h
  | ch c i v =>
    simp only [State.hostWrite]
    split
    · exact setChCells_wf h c (rising_storeCell (rising_chCells h c) i v)
    · exact h
  | pcmout i v => exact h

@[simp] theorem mem_writing {b d : Buffer} {n : Nat} : d ∈ writing b n ↔ n ≠ 0 ∧ d = b := by
  unfold writing; split <;> simp_all

/-- A command that ends with an error or with the warning was writing no buffer memory (60_exceptions.md R220). -/
theorem buffersWritten_of_error (s : State) (i : Instr) (h : expectedCode i s ≠ 0) : s.buffersWritten i = [] := by
  cases i <;>
    simp [State.buffersWritten, expectedCode, wrongState, noFreeSlot, lengthTooLarge, invalidParameter, lengthsDiffer,
      tapsClamped, configuredChannel] at h ⊢ <;>
    (try split_ifs at h) <;> simp_all <;> omega

theorem scramble_wf {s : State} (h : s.mem.wf) (b : Buffer) : (s.scramble b).mem.wf := by
  obtain ⟨h1, h2, h3, h4, h5, h6⟩ := h
  cases b
  · exact ⟨h1, h2, h3, h4, h5, h6⟩
  · exact ⟨h1, rising_storeFrom _ h2 0, h3, h4, h5, h6⟩
  · exact ⟨h1, h2, rising_storeFrom _ h3 0, h4, h5, h6⟩
  · exact ⟨h1, h2, h3, rising_storeFrom _ h4 0, h5, h6⟩
  · exact ⟨h1, h2, h3, h4, rising_storeFrom _ h5 0, h6⟩

/-- A reset that cuts a command short keeps the canonical form. -/
theorem abandon_wf {s : State} (h : s.mem.wf) (i : Instr) : (s.abandon i).mem.wf := by
  have hf : ∀ (bs : List Buffer) (s : State), s.mem.wf → (bs.foldl State.scramble s).mem.wf := by
    intro bs
    induction bs with
    | nil => intro s h; exact h
    | cons b bs ih => intro s h; exact ih _ (scramble_wf h b)
  exact warmReset_wf (hf _ s h)

theorem powerUpReset_wf (s : State) : s.powerUpReset.mem.wf := unwritten_wf

/-- A step of a filter keeps its delay memory canonical. -/
theorem stepFilter_canonical (free : Nat → BitVec 64) {st : FilterState} (h : Canonical 0#32 st.2) (x : F32) :
    Canonical 0#32 (stepFilter free st x).2.2 := by
  unfold stepFilter
  split
  · exact canonical_storeOr h _ _
  · exact h
  · exact h
  · exact h

end Machine
end Sys2Proof
end

