-- ==== Sys2Proof/Laws/PerInstr.lean ====
section
/-! SUPPORT. Statements made of every instruction as syntax, one lemma per constructor. -/

namespace Sys2Proof
namespace Laws

/-- The packet of an instruction has the number of words that its OPC asks for (30_encoding.md R63). -/
def EncodeLength.Statement (i : Instr) : Prop := (encode i).length = packetWords (opcOf i.word0)

theorem EncodeLength.nop : EncodeLength.Statement .nop := by
  simp [EncodeLength.Statement, Sys2Proof.encode, Instr.word0, Instr.operandWords, packetWords]

theorem EncodeLength.clrst : EncodeLength.Statement .clrst := by
  simp [EncodeLength.Statement, Sys2Proof.encode, Instr.word0, Instr.operandWords, packetWords]

theorem EncodeLength.srst : EncodeLength.Statement .srst := by
  simp [EncodeLength.Statement, Sys2Proof.encode, Instr.word0, Instr.operandWords, packetWords]

theorem EncodeLength.decode : EncodeLength.Statement .decode := by
  simp [EncodeLength.Statement, Sys2Proof.encode, Instr.word0, Instr.operandWords, packetWords]

theorem EncodeLength.encode : EncodeLength.Statement .encode := by
  simp [EncodeLength.Statement, Sys2Proof.encode, Instr.word0, Instr.operandWords, packetWords]

theorem EncodeLength.split : EncodeLength.Statement .split := by
  simp [EncodeLength.Statement, Sys2Proof.encode, Instr.word0, Instr.operandWords, packetWords]

theorem EncodeLength.merge : EncodeLength.Statement .merge := by
  simp [EncodeLength.Statement, Sys2Proof.encode, Instr.word0, Instr.operandWords, packetWords]

theorem EncodeLength.chClear (c : Channel) : EncodeLength.Statement (.chClear c) := by
  simp [EncodeLength.Statement, Sys2Proof.encode, Instr.word0, Instr.operandWords, packetWords]

theorem EncodeLength.chAct (c : Channel) : EncodeLength.Statement (.chAct c) := by
  simp [EncodeLength.Statement, Sys2Proof.encode, Instr.word0, Instr.operandWords, packetWords]

theorem EncodeLength.apply (c : Channel) : EncodeLength.Statement (.apply c) := by
  simp [EncodeLength.Statement, Sys2Proof.encode, Instr.word0, Instr.operandWords, packetWords]

theorem EncodeLength.cfgDlyt (c : Channel) (taps : Word) : EncodeLength.Statement (.cfgDlyt c taps) := by
  simp [EncodeLength.Statement, Sys2Proof.encode, Instr.word0, Instr.operandWords, packetWords]

theorem EncodeLength.cfgDlym (c : Channel) (delayMs sampleRate : Word) : EncodeLength.Statement (.cfgDlym c delayMs sampleRate) := by
  simp [EncodeLength.Statement, Sys2Proof.encode, Instr.word0, Instr.operandWords, packetWords]

theorem EncodeLength.cfgVol (c : Channel) (curve : Curve) (gain : F32) : EncodeLength.Statement (.cfgVol c curve gain) := by
  simp [EncodeLength.Statement, Sys2Proof.encode, Instr.word0, Instr.operandWords, packetWords]

theorem EncodeLength.cfgBqLp (c : Channel) (pkind : ParamKind) (ops : BiquadOperands) : EncodeLength.Statement (.cfgBqLp c pkind ops) := by
  simp [EncodeLength.Statement, Sys2Proof.encode, Instr.word0, Instr.operandWords, biquadOperandWords, packetWords]

theorem EncodeLength.cfgBqHp (c : Channel) (pkind : ParamKind) (ops : BiquadOperands) : EncodeLength.Statement (.cfgBqHp c pkind ops) := by
  simp [EncodeLength.Statement, Sys2Proof.encode, Instr.word0, Instr.operandWords, biquadOperandWords, packetWords]

theorem EncodeLength.cfgBqBp (c : Channel) (pkind : ParamKind) (ops : BiquadOperands) : EncodeLength.Statement (.cfgBqBp c pkind ops) := by
  simp [EncodeLength.Statement, Sys2Proof.encode, Instr.word0, Instr.operandWords, biquadOperandWords, packetWords]

theorem EncodeLength.cfgBqNotch (c : Channel) (pkind : ParamKind) (ops : BiquadOperands) : EncodeLength.Statement (.cfgBqNotch c pkind ops) := by
  simp [EncodeLength.Statement, Sys2Proof.encode, Instr.word0, Instr.operandWords, biquadOperandWords, packetWords]

theorem EncodeLength.cfgBqApk (c : Channel) (pkind : ParamKind) (ops : BiquadOperands) : EncodeLength.Statement (.cfgBqApk c pkind ops) := by
  simp [EncodeLength.Statement, Sys2Proof.encode, Instr.word0, Instr.operandWords, biquadOperandWords, packetWords]

theorem EncodeLength.cfgBqPeq (c : Channel) (pkind : ParamKind) (ops : BiquadOperands) : EncodeLength.Statement (.cfgBqPeq c pkind ops) := by
  simp [EncodeLength.Statement, Sys2Proof.encode, Instr.word0, Instr.operandWords, biquadOperandWords, packetWords]

theorem EncodeLength.cfgBqLs (c : Channel) (pkind : ParamKind) (ops : BiquadOperands) : EncodeLength.Statement (.cfgBqLs c pkind ops) := by
  simp [EncodeLength.Statement, Sys2Proof.encode, Instr.word0, Instr.operandWords, biquadOperandWords, packetWords]

theorem EncodeLength.cfgBqHs (c : Channel) (pkind : ParamKind) (ops : BiquadOperands) : EncodeLength.Statement (.cfgBqHs c pkind ops) := by
  simp [EncodeLength.Statement, Sys2Proof.encode, Instr.word0, Instr.operandWords, biquadOperandWords, packetWords]

end Laws
end Sys2Proof
end

