-- ==== Sys2Proof/Tests/Slice0.lean ====
section
/-! SUPPORT. Tests of the model against the spec's worked examples and vectors (rules named R, vectors named S, V and P of
95_test_vectors.md), and one witness for the hypotheses of every statement that has some. -/

namespace Sys2Proof
namespace Machine

/-! ## Well-formedness: an ill-formed term for each check -/

theorem test_curve_zero_is_not_reserved :
    Instr.wellFormed (.cfgVol .ch0 (.reserved 0) 0x3F800000#32) = false := by decide

theorem test_curve_sixteen_has_no_field :
    Instr.wellFormed (.cfgVol .ch0 (.reserved 16) 0x3F800000#32) = false := by decide

theorem test_kind_two_is_not_reserved :
    Instr.wellFormed (.cfgBqLp .ch0 (.reserved 2) ⟨0, 0, 0, 0⟩) = false := by decide

theorem test_kind_sixteen_has_no_field :
    Instr.wellFormed (.cfgBqHs .ch1 (.reserved 16) ⟨0, 0, 0, 0⟩) = false := by decide

theorem test_reserved_bounds_are_well_formed :
    Instr.wellFormed (.cfgVol .ch0 (.reserved 15) 0#32) = true ∧
    Instr.wellFormed (.cfgBqPeq .ch0 (.reserved 3) ⟨0, 0, 0, 0⟩) = true := by decide

/-! ## Decoding: words written out from the fields of R61 and the rows of R66 -/

theorem test_decode_system_words :
    decode [0x00000000#32] = .ok .nop ∧ decode [0x01000000#32] = .ok .clrst ∧ decode [0x02000000#32] = .ok .srst := by
  decide

theorem test_decode_data_words :
    decode [0x10000000#32] = .ok .decode ∧ decode [0x11000000#32] = .ok .encode ∧
    decode [0x12000000#32] = .ok .split ∧ decode [0x13000000#32] = .ok .merge := by decide

theorem test_decode_chain_words :
    decode [0x20000001#32] = .ok (.chClear .ch1) ∧ decode [0x21000000#32] = .ok (.chAct .ch0) ∧
    decode [0x22000001#32] = .ok (.apply .ch1) := by decide

/-- OPC 0011 0000 or 0011 0001 or 0011 0010, CURVE, zeros, CH. -/
theorem test_decode_delay_and_volume_words :
    decode [0x30000000#32, 0x00000006#32] = .ok (.cfgDlyt .ch0 6#32) ∧
    decode [0x31000001#32, 0x0000000A#32, 0x0000BB80#32] = .ok (.cfgDlym .ch1 10#32 48000#32) ∧
    decode [0x32000000#32, 0x40000000#32] = .ok (.cfgVol .ch0 .linear 0x40000000#32) ∧
    decode [0x32F00001#32, 0x40000000#32] = .ok (.cfgVol .ch1 (.reserved 15) 0x40000000#32) := by decide

/-- The packet of the document's regression vector (R164). -/
theorem test_decode_regression_packet :
    decode [0x40000000#32, 0x00000000#32, 0x40E77000#32, 0x00000000#32, 0x40BF4000#32, 0x00000000#32, 0x00000000#32,
      0x76C8B439#32, 0x3FE69FBE#32] =
    .ok (.cfgBqLp .ch0 .q
      ⟨0x40E7700000000000#64, 0x40BF400000000000#64, 0x0000000000000000#64, 0x3FE69FBE76C8B439#64⟩) := by decide

theorem test_decode_biquad_types :
    decodeTableWord 32 0x40100001 = some (.cfgBqHp .ch1 .q ⟨0, 0, 0, 0⟩) ∧
    decodeTableWord 32 0x40210000 = some (.cfgBqBp .ch0 .bandwidth ⟨0, 0, 0, 0⟩) ∧
    decodeTableWord 32 0x40300000 = some (.cfgBqNotch .ch0 .q ⟨0, 0, 0, 0⟩) ∧
    decodeTableWord 32 0x40400000 = some (.cfgBqApk .ch0 .q ⟨0, 0, 0, 0⟩) ∧
    decodeTableWord 32 0x40510000 = some (.cfgBqPeq .ch0 .bandwidth ⟨0, 0, 0, 0⟩) ∧
    decodeTableWord 32 0x40620000 = some (.cfgBqLs .ch0 .slope ⟨0, 0, 0, 0⟩) ∧
    decodeTableWord 32 0x407F0001 = some (.cfgBqHs .ch1 (.reserved 15) ⟨0, 0, 0, 0⟩) := by decide

/-- R67: an OPC with no row, a must-be-zero bit, a reserved TYPE, a wrong number of words. -/
theorem test_illegal_packets_are_rejected_by_name :
    decode [0x03000000#32] = .error .unassignedOpcode ∧ decode [0x00000001#32] = .error .reservedBit ∧
    decode [0x22000002#32] = .error .reservedBit ∧ decode [0x20100000#32] = .error .reservedBit ∧
    decode [0x32010000#32, 0#32] = .error .reservedBit ∧
    decode [0x40800000#32, 0#32, 0#32, 0#32, 0#32, 0#32, 0#32, 0#32, 0#32] = .error .reservedType ∧
    decode [0x30000000#32] = .error .wrongLength ∧ decode [0x10000000#32, 0#32] = .error .wrongLength := by decide

/-! ## Arithmetic (V1, 40_numerics.md, 46_biquad_coefficients.md; the elementary functions' values are the spec's) -/

theorem test_decode1_rows :
    decode1 1#16 = 0x38000100#32 ∧ decode1 0xFFFF#16 = 0xB8000000#32 ∧ decode1 12345#16 = 0x3EC0E582#32 ∧
    decode1 0x8001#16 = 0xBF7FFE00#32 := by decide +kernel

theorem test_encode1_rows :
    encode1 0x3F7FFFFF#32 = 32766#16 ∧ encode1 0xBF7FFFFF#32 = 0x8001#16 ∧ encode1 0x38000000#32 = 0#16 ∧
    encode1 0xB8000000#32 = 0xFFFF#16 ∧ encode1 0xFF800000#32 = 0x8000#16 ∧ encode1 0x7F800001#32 = 0#16 := by
  decide +kernel

/-- R69: 0.707 and 2.0 as literals. -/
theorem test_literals :
    f64Literal false 707 1000 = 0x3FE69FBE76C8B439#64 ∧ f32Literal false 2 1 = 0x40000000#32 := by decide +kernel

/-- One fixed NaN payload for tests of the formulas. -/
def noFree : Nat → BitVec 64 := fun _ => 0#64

/-- cos ω0 and α of the examples at 48000 and 1000 with Q = 1 (R165): a1 is -2 cos ω0. -/
def terms1000 : BiquadTerms :=
  ⟨one64, f64Neg (f64Div 0#64 0xBFFFB9EA92EC689B#64 two64), f64Mul 0#64 two64 0x3FB0B5150F6DA2D0#64,
    0x3FB0B5150F6DA2D0#64⟩

/-- KIND and the five ratios of a slot. -/
def ratios (r : Slot) : List (BitVec 64) := [r.kind, r.n0, r.n1, r.n2, r.n3, r.n4]

theorem test_omega_and_alpha :
    omegaTerm noFree 0x40E7700000000000#64 0x40BF400000000000#64 = 0x3FF0C152382D7365#64 ∧
    alphaOfQ noFree 0x3FEBB67AE8584CAA#64 0x3FE69FBE76C8B439#64 = 0x3FE399500ACA36F1#64 ∧
    alphaOfSlope noFree 0x3FEBB67AE8584CAA#64 0x3FE6A77DEAE8AB8A#64 one64 = 0x3FE3988E1409212F#64 := by decide +kernel

theorem test_low_pass_formulas :
    lowPassRaw noFree ⟨one64, 0x3FE0000000000001#64, 0x3FEBB67AE8584CAA#64, 0x3FE399500ACA36F1#64⟩ =
      ⟨0x3FCFFFFFFFFFFFFE#64, 0x3FDFFFFFFFFFFFFE#64, 0x3FCFFFFFFFFFFFFE#64, 0x3FF9CCA805651B78#64,
        0xBFF0000000000001#64, 0x3FD8CD5FEA6B921E#64⟩ := by decide +kernel

theorem test_high_pass_formulas :
    ratios (biquadSlot noFree .highPass .q (highPassRaw noFree terms1000)) =
      [0x13#64, 0x3FEDE939587438A7#64, 0xBFFDE939587438A7#64, 0x3FEDE939587438A7#64, 0xBFFDC854389C37D9#64,
        0x3FEC143CF09872E6#64] := by decide +kernel

theorem test_band_pass_formulas :
    ratios (biquadSlot noFree .bandPass .q (bandPassRaw noFree terms1000)) =
      [0x23#64, 0x3FAF5E187B3C68CE#64, 0#64, 0xBFAF5E187B3C68CE#64, 0xBFFDC854389C37D9#64, 0x3FEC143CF09872E6#64] := by
  decide +kernel

theorem test_notch_formulas :
    ratios (biquadSlot noFree .notch .q (notchRaw noFree terms1000)) =
      [0x33#64, 0x3FEE0A1E784C3973#64, 0xBFFDC854389C37D9#64, 0x3FEE0A1E784C3973#64, 0xBFFDC854389C37D9#64,
        0x3FEC143CF09872E6#64] := by decide +kernel

theorem test_audio_peak_formulas :
    ratios (biquadSlot noFree .audioPeak .q (audioPeakRaw noFree terms1000)) =
      [0x43#64, 0x3FAF5E187B3C68CE#64, 0#64, 0xBFAF5E187B3C68CE#64, 0xBFFDC854389C37D9#64, 0x3FEC143CF09872E6#64] := by
  decide +kernel

theorem test_peaking_eq_formulas :
    ratios (biquadSlot noFree .peakingEq .bandwidth
      (peakingEqRaw noFree { terms1000 with a := 0x3FF699C0F7E86E10#64, al := 0x3FA7A0B52F08429F#64 })) =
      [0x153#64, 0x3FF080F84E3D2E14#64, 0xBFFEB8F73D326B95#64, 0x3FECF7B981234426#64, 0xBFFEB8F73D326B95#64,
        0x3FEDF9AA1D9DA050#64] := by decide +kernel

theorem test_low_shelf_formulas :
    lowShelfRaw noFree
      ⟨0x3FF699C0F7E86E10#64, 0x3FEFFD315BBF4275#64, 0x3F9ACE214390CA91#64, 0x3F92F44234653B07#64⟩ =
      ⟨0x40071971A04001DB#64, 0xC016975CB8C0E7B7#64, 0x40061AE1B2290569#64, 0x4006F392884B8889#64,
        0xC016980F87EA864A#64, 0x40063F5B2BCA4197#64⟩ := by decide +kernel

theorem test_high_shelf_formulas :
    highShelfRaw noFree
      ⟨0x3FE6A77DEAE8AB8A#64, 0x3FE0000000000001#64, 0x3FEBB67AE8584CAA#64, 0x3FE3988E1409212F#64⟩ =
      ⟨0x3FFD5D56D7CAA0D3#64, 0xBFE975AF82B11B70#64, 0x3FD813FB51DA61B8#64, 0x40071363945FB346#64,
        0xC00256208545D51E#64, 0x3FEA59EF9969DE76#64⟩ := by decide +kernel

/-- Properties P3 and P2 of R92. -/
theorem test_power_properties :
    fPow ten64 0x8000000000000000#64 = one64 ∧ fPow two64 zero64 = one64 ∧
    isNaN64 (fPow ten64 0x7FF8000000000000#64) = true := by
  refine ⟨by decide +kernel, by decide +kernel, ?_⟩
  have h : isNaN64 0x7FF8000000000000#64 = true := by decide +kernel
  simp [fPow, h]

/-! ## One step each, on small states -/

/-- What a next state shows; none where there is no next state. -/
def shown {α : Type} (o : Host.Outcome State Fault Refusal) (f : State → α) : Option α :=
  match o with
  | .next t => some (f t)
  | .fault _ => none
  | .refused _ => none

/-- These elements from index 0 up, and nothing else. -/
def cellsOf {w : Nat} (vs : List (BitVec w)) : Cells w := storeFrom [] 0 vs

/-- A chain in this state with these filters. -/
def chainOf (phase : ChainPhase) (slots : List Slot) : Chain :=
  ⟨phase, BitVec.ofNat 8 slots.length, storeFrom [] 0 slots⟩

/-- The reset state with a chain for channel 0. -/
def withChain0 (phase : ChainPhase) (slots : List Slot) : State := { State.reset with chain0 := chainOf phase slots }

/-- RESULT, STATUS, ERRWORD, CHAIN0, CHAIN1. -/
def recordOf (s : State) : List Word := [s.result, s.status, s.errword, s.chain0.word, s.chain1.word]

/-- R200's example. -/
theorem test_nop_keeps_the_record :
    shown (exec .nop { State.reset with result := 1#32, status := 1#32, errword := 0x13000000#32 }) recordOf =
      some [0#32, 1#32, 0x13000000#32, 0#32, 0#32] := by decide

/-- R201's example, with a FAILED chain that stays FAILED. -/
theorem test_clrst_clears_the_record :
    shown (exec .clrst { withChain0 .failed [] with status := 0x43#32, errword := 0x31000001#32 }) recordOf =
      some [0#32, 0#32, 0#32, 2#32, 0#32] := by decide

/-- R202's example. -/
theorem test_srst_resets :
    shown (exec .srst { withChain0 .active [volumeSlot 1#32, volumeSlot 2#32, volumeSlot 3#32] with
      status := 2#32, lenIn := 512#32, mem := { Memory.unwritten with ilv := [(0, 7#32)] } })
      (fun t => (recordOf t, t.lenIn, t.ilvAt 0, t.readSlot 0 0 0)) =
      some ([0#32, 0#32, 0#32, 0#32, 0#32], 0#32, 7#32, 0#64) := by decide

/-- R101's example. -/
theorem test_decode_step :
    shown (exec .decode { State.reset with
      lenIn := 5#32, mem := { Memory.unwritten with pcmin := cellsOf [0#16, 1#16, 0xFFFF#16, 0x7FFF#16, 0x8000#16] } })
      (fun t => (elements t.ilvAt 5, t.lenIlv)) =
      some ([0#32, 0x38000100#32, 0xB8000000#32, 0x3F800000#32, 0xBF800000#32], 5#32) := by decide +kernel

/-- V1: a length one above the capacity. -/
theorem test_decode_bad_length :
    shown (exec .decode { State.reset with lenIn := 8193#32 }) (fun t => (recordOf t, t.lenIlv)) =
      some ([7#32, 0x40#32, 0x10000000#32, 0#32, 0#32], 0#32) := by decide

/-- R103's example. -/
theorem test_encode_step :
    shown (exec .encode { State.reset with
      lenIlv := 4#32
      mem := { Memory.unwritten with ilv := cellsOf [0x3F800001#32, 0xBF800001#32, 0x42F6E979#32, 0xC2F6E979#32] } })
      (fun t => (elements t.pcmoutAt 4, t.lenOut)) =
      some ([0x7FFF#16, 0x8000#16, 0x7FFF#16, 0x8000#16], 4#32) := by decide +kernel

/-- R110's example: an odd length. -/
theorem test_split_step :
    shown (exec .split { State.reset with
      lenIlv := 5#32, mem := { Memory.unwritten with ilv := cellsOf [10#32, 20#32, 11#32, 21#32, 12#32] } })
      (fun t => (t.mem.ch0, t.mem.ch1, t.lenCh0, t.lenCh1)) =
      some ([(0, 10#32), (1, 11#32), (2, 12#32)], [(0, 20#32), (1, 21#32)], 3#32, 2#32) := by decide

/-- R111's example. -/
theorem test_merge_step :
    shown (exec .merge { State.reset with
      lenCh0 := 2#32, lenCh1 := 2#32
      mem := { Memory.unwritten with ch0 := cellsOf [10#32, 11#32], ch1 := cellsOf [20#32, 21#32] } })
      (fun t => (t.mem.ilv, t.lenIlv)) =
      some ([(0, 10#32), (1, 20#32), (2, 11#32), (3, 21#32)], 4#32) := by decide

/-- V2: BadLength is tested before LengthMismatch; and the document's lengths 4 and 3. -/
theorem test_merge_errors :
    shown (exec .merge { State.reset with lenCh0 := 5000#32, lenCh1 := 3#32 }) recordOf =
      some [7#32, 0x40#32, 0x13000000#32, 0#32, 0#32] ∧
    shown (exec .merge { State.reset with lenCh0 := 4#32, lenCh1 := 3#32 }) recordOf =
      some [1#32, 1#32, 0x13000000#32, 0#32, 0#32] := by decide

/-- V3. -/
theorem test_clear_step :
    shown (exec (.chClear .ch0) (withChain0 .failed [volumeSlot 0x3F800000#32])) (fun t => (recordOf t, t.slot .ch0 0)) =
      some ([0#32, 0#32, 0#32, 0#32, 0#32], Slot.empty) := by decide

/-- V3: activation of an empty chain, and of a FAILED one. -/
theorem test_activation :
    shown (exec (.chAct .ch0) State.reset) recordOf = some [0#32, 0#32, 0#32, 1#32, 0#32] ∧
    shown (exec (.chAct .ch0) (withChain0 .failed [volumeSlot 0#32])) recordOf =
      some [5#32, 0x10#32, 0x21000000#32, 0x102#32, 0#32] := by decide

/-- V3: a gain stage of 0.5, then a delay of two; the delay line stores the scaled samples. -/
theorem test_apply_in_order :
    shown (exec (.apply .ch0) { withChain0 .active [volumeSlot 0x3F000000#32, delaySlot 2 false] with
      lenCh0 := 4#32
      mem := { Memory.unwritten with ch0 := cellsOf [0x3F800000#32, 0x3F000000#32, 0xBE800000#32, 0x3E000000#32] } })
      (fun t => (elements (t.chAt .ch0) 4, t.ring .ch0 1, (t.slot .ch0 1).head)) =
      some ([0#32, 0#32, 0x3F000000#32, 0x3E800000#32], [(0, 0xBE000000#32), (1, 0x3D800000#32)], 0#64) := by
  decide +kernel

/-- R192's example: the recurrence with exactly representable ratios. -/
theorem test_apply_biquad :
    shown (exec (.apply .ch0) { withChain0 .active
        [{ Slot.empty with
           kind := 3#64, n0 := 0x3FE0000000000000#64, n1 := 0x3FD0000000000000#64, n2 := 0x3FC0000000000000#64
           n3 := 0xBFE0000000000000#64, n4 := 0x3FD0000000000000#64 }] with
      lenCh0 := 4#32, mem := { Memory.unwritten with ch0 := cellsOf [0x3F800000#32, 0#32, 0#32, 0#32] } })
      (fun t => (elements (t.chAt .ch0) 4, (t.slot .ch0 0).y2)) =
      some ([0x3F000000#32, 0x3F000000#32, 0x3E800000#32, 0#32], 0x3FD0000000000000#64) := by decide +kernel

/-- V5 and P4: zero taps, and one tap too many. -/
theorem test_delay_taps :
    shown (exec (.cfgDlyt .ch0 0#32) State.reset) (fun t => (recordOf t, t.slot .ch0 0)) =
      some ([0#32, 0#32, 0#32, 0x100#32, 0#32], { Slot.empty with kind := 1#64, taps := 1#64 }) ∧
    shown (exec (.cfgDlyt .ch1 0x10000001#32) State.reset) (fun t => (recordOf t, t.slot .ch1 0)) =
      some ([3#32, 4#32, 0x30000001#32, 0#32, 0x100#32], { Slot.empty with kind := 0x10001#64, taps := 1#64 }) := by
  decide +kernel

/-- V5: the largest product, and a rate of 0. -/
theorem test_delay_milliseconds :
    shown (exec (.cfgDlym .ch0 5592405#32 48000#32) State.reset) (fun t => (t.result, (t.slot .ch0 0).taps)) =
      some (0#32, 268435440#64) ∧
    shown (exec (.cfgDlym .ch0 0#32 0#32) State.reset) recordOf =
      some [2#32, 2#32, 0x31000000#32, 2#32, 0#32] := by decide +kernel

/-- V3: a curve that is reserved, and a full chain. -/
theorem test_volume_errors :
    shown (exec (.cfgVol .ch0 (.reserved 1) 0x3F800000#32) (withChain0 .opened [volumeSlot 0#32])) recordOf =
      some [2#32, 2#32, 0x32100000#32, 0x102#32, 0#32] ∧
    shown (exec (.cfgVol .ch0 (.reserved 1) 0#32)
      (withChain0 .opened (List.replicate 8 (volumeSlot 0x3F800000#32)))) recordOf =
      some [6#32, 0x20#32, 0x32100000#32, 0x802#32, 0#32] := by decide

/-- 48000, 8000, 0 and PARAM. -/
def operands8000 (param : F64) : BiquadOperands := ⟨0x40E7700000000000#64, 0x40BF400000000000#64, 0#64, param⟩

/-- P3, step 2: Q = 0 fails the chain; a NaN and -0.0 fail as well, +infinity does not. -/
theorem test_biquad_validation :
    shown (exec (.cfgBqLp .ch0 .q (operands8000 0#64)) State.reset) recordOf =
      some [2#32, 2#32, 0x40000000#32, 2#32, 0#32] ∧
    biquadOperandsValid .lowPass .q (operands8000 0x7FF8000000000000#64) = false ∧
    biquadOperandsValid .lowPass .q (operands8000 0x8000000000000000#64) = false ∧
    biquadOperandsValid .lowPass .q (operands8000 0x7FF0000000000000#64) = true ∧
    biquadOperandsValid .lowShelf .q (operands8000 one64) = false ∧
    biquadOperandsValid .lowPass .slope (operands8000 one64) = false := by decide +kernel

/-- The record and KIND after each of the eight constructors on an empty OPEN chain (V6). -/
theorem test_biquad_kinds :
    shown (exec (.cfgBqLp .ch0 .q (operands8000 one64)) State.reset) (fun t => (t.result, (t.slot .ch0 0).kind)) =
      some (0#32, 0x003#64) ∧
    shown (exec (.cfgBqHp .ch0 .q (operands8000 one64)) State.reset) (fun t => (t.result, (t.slot .ch0 0).kind)) =
      some (0#32, 0x013#64) ∧
    shown (exec (.cfgBqBp .ch0 .q (operands8000 one64)) State.reset) (fun t => (t.result, (t.slot .ch0 0).kind)) =
      some (0#32, 0x023#64) ∧
    shown (exec (.cfgBqNotch .ch0 .q (operands8000 one64)) State.reset) (fun t => (t.result, (t.slot .ch0 0).kind)) =
      some (0#32, 0x033#64) ∧
    shown (exec (.cfgBqApk .ch0 .q (operands8000 one64)) State.reset) (fun t => (t.result, (t.slot .ch0 0).kind)) =
      some (0#32, 0x043#64) ∧
    shown (exec (.cfgBqPeq .ch0 .bandwidth (operands8000 one64)) State.reset)
      (fun t => (t.result, (t.slot .ch0 0).kind)) = some (0#32, 0x153#64) ∧
    shown (exec (.cfgBqLs .ch0 .slope (operands8000 one64)) State.reset)
      (fun t => (t.result, (t.slot .ch0 0).kind)) = some (0#32, 0x263#64) ∧
    shown (exec (.cfgBqHs .ch0 .slope (operands8000 one64)) State.reset)
      (fun t => (t.result, (t.slot .ch0 0).kind)) = some (0#32, 0x273#64) := by decide +kernel

/-- R69: lines of 95_test_vectors.md with the packets it writes beside them. -/
theorem test_assembler_text :
    assembleText "CFG.VOL  0, LINEAR, 2.0      ; [0x32000000, 0x40000000]   code 0" =
      some [[0x32000000#32, 0x40000000#32]] ∧
    assembleText "CFG.BQ.LP 0, Q, 48000, 8000, 0, 0" =
      some [[0x40000000#32, 0#32, 0x40E77000#32, 0#32, 0x40BF4000#32, 0#32, 0#32, 0#32, 0#32]] ∧
    assembleText "APPLY 2" = none ∧ assembleText " ; a comment" = some [] := by decide +kernel

/-- R70, R69: CYCLE and one line of each shape. -/
theorem test_assembler :
    packetsOf (.cfgVol 0 .linear (.decimal false 2 1)) = some [[0x32000000#32, 0x40000000#32]] ∧
    packetsOf (.cfgBq .lowPass 0 .q (.decimal false 48000 1) (.decimal false 8000 1) (.decimal false 0 1)
      (.decimal false 707 1000)) =
      some [[0x40000000#32, 0x00000000#32, 0x40E77000#32, 0x00000000#32, 0x40BF4000#32, 0x00000000#32, 0x00000000#32,
        0x76C8B439#32, 0x3FE69FBE#32]] ∧
    packetsOf (.apply 2) = none := by decide +kernel

/-- An illegal packet through the whole machine: P3, step 13. -/
theorem test_illegal_step :
    shown (step (State.reset.withFetchWord 32 0x00000001)) recordOf = some [4#32, 8#32, 1#32, 0#32, 0#32] := by decide

/-! ## Witnesses: states and operands that meet the hypotheses of each statement, at the boundaries of their ranges -/

theorem test_witness_DecodeOfEncode : Instr.wellFormed (.cfgBqHs .ch1 (.reserved 3) ⟨0, 0, 0, 0⟩) = true := by decide

theorem test_witness_EncodeOfDecode : decode [0x22000001#32] = .ok (.apply .ch1) := by decide

theorem test_witness_PacketLengthByOpcode :
    (0x41#8 ≠ 0x30#8 ∧ 0x41#8 ≠ 0x31#8 ∧ 0x41#8 ≠ 0x32#8 ∧ 0x41#8 ≠ 0x40#8) ∧
    ([] : List Word).length + 1 ≠ packetWords (BitVec.extractLsb' 24 8 0x30000000#32) := by decide

theorem test_witness_OperandHalvesLowFirst :
    decode [0x40710001#32, 1#32, 2#32, 3#32, 4#32, 5#32, 6#32, 7#32, 8#32] =
      .ok (.cfgBqHs .ch1 .bandwidth
        ⟨0x0000000200000001#64, 0x0000000400000003#64, 0x0000000600000005#64, 0x0000000800000007#64⟩) := by decide

/-- The reset state with one action in the host's list. -/
def withAction (a : HostAction) : State := { State.reset with inbox := [a] }

theorem test_witness_StepRunsTheDecodedInstruction :
    (withAction (.packet 0x22000000#32 [])).inbox = .packet 0x22000000#32 [] :: [] ∧
    decode [0x22000000#32] = .ok (.apply .ch0) := by decide

theorem test_witness_IllegalPacketOnlyRecords :
    (withAction (.packet 0x22000002#32 [])).inbox = .packet 0x22000002#32 [] :: [] ∧
    ∀ row ∈ opcodeMap, row.covers 0x22000002#32 [] = false := by decide

theorem test_witness_HostReadReturnsTheElement :
    (withAction (.read (.reg 2))).inbox = .read (.reg 2) :: [] ∧ 8191 < 2 * State.reset.maxf ∧
    4095 < State.reset.maxf ∧ 7 < State.reset.nslot.toNat ∧ (State.reset.chain .ch0).phase = .opened ∧
    ((withChain0 .active []).chain .ch0).phase = .active ∧ ((withChain0 .failed []).chain .ch0).phase = .failed ∧
    (({ State.reset with chain1 := chainOf .active [] } : State).chain .ch1).phase = .active ∧
    (({ State.reset with chain1 := chainOf .failed [] } : State).chain .ch1).phase = .failed := by decide

theorem test_witness_HostWriteStoresTheElement :
    (withAction (.write (.reg 5 1#32))).inbox = .write (.reg 5 1#32) :: [] ∧ 8191 < 2 * State.reset.maxf ∧
    4095 < State.reset.maxf ∧ (4 < 5 ∨ (8 < 4 ∧ 4 < 12)) ∧ (9 < 5 ∨ (8 < 9 ∧ 9 < 12)) ∧
    (11 < 5 ∨ (8 < 11 ∧ 11 < 12)) := by decide

theorem test_witness_HostOutOfRangeIsInert :
    12 ≤ 12 ∧ 2 ≤ 2 ∧ State.reset.nslot.toNat ≤ 8 ∧ 19 ≤ 19 ∧ 2 * State.reset.maxf ≤ 8192 ∧
    State.reset.maxf ≤ 4096 := by decide

theorem test_witness_EveryStepAnswersNext : State.reset.inbox = [] := rfl

def withLengths (lenIn lenIlv lenCh0 lenCh1 : Word) : State :=
  { State.reset with lenIn := lenIn, lenIlv := lenIlv, lenCh0 := lenCh0, lenCh1 := lenCh1 }

theorem test_witness_ResetCausesAgree :
    (withAction .reset).inbox = .reset :: [] ∧ (withAction .powerUp).inbox = .powerUp :: [] ∧
    (withAction (.packet 0x02000000#32 [])).inbox = .packet 0x02000000#32 [] :: [] ∧
    (withAction (.resetDuring 0x22000001#32 [])).inbox = .resetDuring 0x22000001#32 [] :: [] ∧
    decode [0x22000001#32] = .ok (.apply .ch1) ∧
    expectedCode (.apply .ch1) (withAction (.resetDuring 0x22000001#32 [])) ≠ 0 ∧
    (withAction (.resetDuring 0x03000000#32 [])).inbox = .resetDuring 0x03000000#32 [] :: [] ∧
    decode [0x03000000#32] = .error .unassignedOpcode := by decide

/-- R240: a command cut short was writing its destination, and nothing where it would have ended with an error. -/
theorem test_buffers_written :
    State.reset.buffersWritten (.apply .ch1) = [] ∧
    (withLengths 0#32 8193#32 0#32 0#32).buffersWritten .split = [] ∧
    (withLengths 0#32 1#32 0#32 0#32).buffersWritten .split = [.ch0] ∧
    (withLengths 8192#32 0#32 0#32 0#32).buffersWritten .decode = [.ilv] := by decide

/-- The reset state with these lengths. -/
theorem test_witness_DecodeFillsIlv :
    (withLengths 8192#32 0#32 0#32 0#32).lenIn.toNat ≤ 2 * State.reset.maxf ∧
    2 * State.reset.maxf < (withLengths 8193#32 0#32 0#32 0#32).lenIn.toNat := by decide

theorem test_witness_EncodeFillsPcmout_SplitDeinterleaves :
    (withLengths 0#32 8192#32 0#32 0#32).lenIlv.toNat ≤ 2 * State.reset.maxf ∧
    2 * State.reset.maxf < (withLengths 0#32 8193#32 0#32 0#32).lenIlv.toNat := by decide

theorem test_witness_MergeInterleaves :
    ((withLengths 0#32 0#32 4096#32 4096#32).lenCh0.toNat ≤ State.reset.maxf ∧
      (withLengths 0#32 0#32 4096#32 4096#32).lenCh1 = (withLengths 0#32 0#32 4096#32 4096#32).lenCh0) ∧
    State.reset.maxf < (withLengths 0#32 0#32 4096#32 4097#32).lenCh1.toNat ∧
    ((withLengths 0#32 0#32 4#32 3#32).lenCh0.toNat ≤ State.reset.maxf ∧
      (withLengths 0#32 0#32 4#32 3#32).lenCh1.toNat ≤ State.reset.maxf ∧
      (withLengths 0#32 0#32 4#32 3#32).lenCh0 ≠ (withLengths 0#32 0#32 4#32 3#32).lenCh1) := by decide

theorem test_witness_SplitAndMergeAreInverse :
    ((withLengths 0#32 8192#32 0#32 0#32).lenIlv.toNat ≤ 2 * State.reset.maxf ∧
      (withLengths 0#32 8192#32 0#32 0#32).lenIlv.toNat % 2 = 0) ∧
    ((withLengths 0#32 8191#32 0#32 0#32).lenIlv.toNat ≤ 2 * State.reset.maxf ∧
      (withLengths 0#32 8191#32 0#32 0#32).lenIlv.toNat % 2 = 1) ∧
    ((withLengths 0#32 0#32 4096#32 4096#32).lenCh0.toNat ≤ State.reset.maxf ∧
      (withLengths 0#32 0#32 4096#32 4096#32).lenCh1 = (withLengths 0#32 0#32 4096#32 4096#32).lenCh0) := by decide

theorem test_witness_DecodedSampleIsInRange : (1#16 ≠ 0#16) ∧ (0x8000#16).toInt < 0 := by decide

/-- A NaN, both infinities, 1.0 and -1.0 themselves, and the numbers just below them. -/
theorem test_witness_EncodeSaturatesAndTruncates :
    isNaN32 0x7FC00000#32 = true ∧ value32 0x7F800000#32 = .inf false ∧ value32 0xFF800000#32 = .inf true ∧
    value32 0x3F800000#32 = .fin false (2 ^ 149) ∧ value32 0xBF800000#32 = .fin true (2 ^ 149) ∧
    value32 0x3F7FFFFF#32 = .fin false (2 ^ 149 - 2 ^ 125) ∧ value32 0x00000000#32 = .fin false 0 ∧
    value32 0xBF7FFFFF#32 = .fin true (2 ^ 149 - 2 ^ 125) := by decide +kernel

theorem test_witness_ActivationNeedsAnUnfailedChain :
    (State.reset.chain .ch0).phase ≠ .failed ∧ ((withChain0 .active []).chain .ch0).phase ≠ .failed ∧
    ((withChain0 .failed []).chain .ch0).phase = .failed := by decide

theorem test_witness_ApplyRunsTheFiltersInOrder_ApplyEqualsSampleBySample :
    (((withChain0 .active [delaySlot 1 false]).chain .ch0).phase = .active ∧
      ({ withChain0 .active [] with lenCh0 := 4096#32 } : State).lenCh0.toNat ≤ State.reset.maxf) ∧
    (State.reset.chain .ch0).phase ≠ .active ∧
    State.reset.maxf < ({ withChain0 .active [] with lenCh0 := 4097#32 } : State).lenCh0.toNat := by decide

theorem test_witness_DelayStepSwapsAtHead_DelayLineIsAQueue :
    (delaySlot 1 false).IsDelay ∧ (delaySlot 1 true).IsDelay ∧ (delaySlot (2 ^ 28) false).IsDelay ∧
    1 ≤ 2 ^ 28 ∧ (0 : Nat) < [0x3F800000#32].length := by
  unfold Slot.IsDelay
  decide

theorem test_witness_VolumeStepIsOneProduct : (volumeSlot 0xFFFFFFFF#32).IsVolume := by
  unfold Slot.IsVolume
  decide

/-- The least NaN, -0.0, the largest number below 2^127, and 2^127 itself. -/
theorem test_witness_VolumeGainsOneZeroTwo :
    isNaN32 0x80000000#32 = false ∧ value32 0x80000000#32 = .fin true 0 ∧
    value32 0x7EFFFFFF#32 = .fin false (2 ^ 276 - 2 ^ 252) ∧ value32 0x7F000000#32 = .fin false (2 ^ 276) ∧
    isNaN32 0x7F800001#32 = true := by decide +kernel

/-- A biquad slot of TYPE 7 with a NaN ratio. -/
def poisonedSlot : Slot := { Slot.empty with kind := 0x273#64, n4 := 0x7FF8000000000000#64 }

theorem test_witness_BiquadStepIsTheRecurrence_BiquadNaNNeverHeals :
    poisonedSlot.IsBiquad ∧ Poisoned poisonedSlot ∧ isNaN32 0x7FC00000#32 = true := by
  refine ⟨⟨⟨7, 2, by decide, Or.inr ⟨Or.inr rfl, rfl⟩⟩, rfl, rfl, rfl⟩, ?_, by decide +kernel⟩
  unfold Poisoned
  decide +kernel

/-- A chain with seven of eight slots used can take one more; the other hypotheses of the constructors' statements. -/
theorem test_witness_constructors :
    CanBuild .ch0 State.reset ∧ CanBuild .ch0 (withChain0 .opened (List.replicate 7 (volumeSlot 0#32))) ∧
    ((State.reset.chain .ch0).phase = .opened ∧ ((withChain0 .active []).chain .ch0).phase ≠ .opened) ∧
    (((withChain0 .opened (List.replicate 8 (volumeSlot 0#32))).chain .ch0).phase = .opened ∧
      ((withChain0 .opened (List.replicate 8 (volumeSlot 0#32))).chain .ch0).nfilt = State.reset.nslot) := by
  unfold CanBuild
  decide

theorem test_witness_DelayFromTapsIsBuilt_DelayFromMillisecondsIsBuilt :
    (0x10000000#32).toNat ≤ 2 ^ 28 ∧ 2 ^ 28 < (0x10000001#32).toNat ∧ (268435456#32 ≠ 0#32) ∧
    (1000#32).toNat * (268435456#32).toNat / 1000 ≤ 2 ^ 28 ∧
    2 ^ 28 < (1000#32).toNat * (268435457#32).toNat / 1000 := by decide

theorem test_witness_GainStageIsBuilt : (Curve.reserved 1 ≠ .linear) ∧ (Curve.reserved 15 ≠ .linear) := by decide

theorem test_witness_biquad_constructors :
    (kindNeitherQNorBandwidth .q = false ∧ kindNeitherQNorBandwidth .bandwidth = false ∧
      kindNotSlope .slope = false ∧ notAllPositive (operands8000 1#64) = false) ∧
    kindNeitherQNorBandwidth .slope = true ∧ kindNotSlope (.reserved 3) = true ∧
    notAllPositive (operands8000 0x7FF0000000000001#64) = true := by decide +kernel

theorem test_witness_ResultCodeFollowsThePriority :
    (withAction (.packet 0x03000000#32 [])).inbox = .packet 0x03000000#32 [] :: [] ∧
    decode [0x03000000#32] = .error .unassignedOpcode ∧
    (withAction (.packet 0x13000000#32 [])).inbox = .packet 0x13000000#32 [] :: [] ∧
    decode [0x13000000#32] = .ok .merge := by decide

theorem test_witness_ErrorsArePrecise :
    expectedCode .merge (withLengths 0#32 0#32 4#32 3#32) = 1 ∧
    expectedCode (.cfgDlym .ch0 0#32 0#32) State.reset = 2 ∧
    expectedCode (.apply .ch1) State.reset = 5 ∧
    expectedCode (.cfgVol .ch0 (.reserved 1) 0#32) (withChain0 .opened (List.replicate 8 (volumeSlot 0#32))) = 6 ∧
    expectedCode .split (withLengths 0#32 8193#32 0#32 0#32) = 7 ∧ Instr.nop ≠ .clrst ∧ Instr.nop ≠ .srst ∧
    decode [0x03000000#32] = .error .unassignedOpcode := by decide

theorem test_witness_EachMemoryHasItsWriters :
    exec .nop State.reset = .next (State.reset.complete .ok 0#32) ∧ Instr.nop ≠ .decode ∧
    namedChannel (.apply .ch0) ≠ some .ch1 := ⟨rfl, by decide, by decide⟩

theorem test_witness_ChannelsAreIsolated : namedChannel (.apply .ch1) = some .ch1 := rfl

theorem test_witness_StepKeepsMemoryForm_StepKeepsRanges :
    (withAction (.packet 0#32 [])).mem.wf ∧ (withAction (.packet 0#32 [])).RecordOk ∧
    (withAction (.packet 0#32 [])).CapacitiesOk ∧ (withAction (.packet 0#32 [])).BuffersOk ∧
    (withAction (.packet 0#32 [])).LenOutOk := by
  refine ⟨by decide, by unfold State.RecordOk; decide, by unfold State.CapacitiesOk; decide, ?_,
    by unfold State.LenOutOk; decide⟩
  exact ⟨fun _ h => (nomatch h), fun _ h => (nomatch h), fun c _ h => by cases c <;> exact (nomatch h),
    fun _ h => (nomatch h)⟩

theorem test_witness_StepKeepsChainsLegal : ∀ c, (withAction (.packet 0#32 [])).ChainOk c := by
  intro c
  cases c <;> exact
    { nfilt_le := by decide
      built := fun _ h => absurd h (Nat.not_lt_zero _)
      empty := fun _ _ => rfl
      ring := fun _ _ h => (nomatch h)
      canonical := ⟨List.Pairwise.nil, fun _ h => (nomatch h)⟩ }

/-- A step that the invariants' statements speak of. -/
theorem test_witness_steps : step (withAction (.packet 0#32 [])) = .next (State.reset.complete .ok 0#32) := rfl

theorem test_witness_RoundingIsToNearestEven :
    (0 < 3) ∧ 1 ≤ magUnits binary32 binary32.infMag * 3 ∧
    magUnits binary32 binary32.infMag * 1 ≤ magUnits binary32 binary32.infMag ∧
    (roundMag binary32 (2 ^ 25 + 2) 1 + 1 ≤ binary32.infMag ∧
      gap (magUnits binary32 (roundMag binary32 (2 ^ 25 + 2) 1) * 1) (2 ^ 25 + 2) =
        gap (magUnits binary32 (roundMag binary32 (2 ^ 25 + 2) 1 + 1) * 1) (2 ^ 25 + 2)) := by
  decide +kernel

theorem test_witness_SquareRootIsNearest : value64 0x0000000000000001#64 = .fin false 1 ∧ 0 < 1 := by decide +kernel

end Machine
end Sys2Proof
end

section
/-! The host's accesses to the spaces (20_memory.md R45 to R47): what a step that serves one does, what each access returns
or stores, and what a store leaves alone. -/

namespace Sys2Proof
namespace Machine

/-! ## The step that serves an action -/

/-- The action at the head of the host's list is the one that is served (20_memory.md R49). -/
theorem step_of_inbox_cons {s : State} {a : HostAction} {rest : List HostAction} (h : s.inbox = a :: rest) :
    step s = serve a { s with inbox := rest } := by
  unfold step
  rw [h]

/-! ## An element after a store -/

/-- The element accessors read an unlisted cell as a value that depends on its index, so the default is any `d`. -/
theorem getD_lookupCell_storeCell {α : Type} (m : List (Nat × α)) (i j : Nat) (v d : α) :
    (lookupCell (storeCell m i v) j).getD d = if j = i then v else (lookupCell m j).getD d := by
  rw [lookupCell_storeCell]
  split <;> rfl

theorem pcminAt_storeCell (s : State) (i j : Nat) (v : Pcm16) :
    ({ s with mem := { s.mem with pcmin := storeCell s.mem.pcmin i v } } : State).pcminAt j =
      if j = i then v else s.pcminAt j :=
  getD_lookupCell_storeCell s.mem.pcmin i j v _

theorem ilvAt_storeCell (s : State) (i j : Nat) (v : F32) :
    ({ s with mem := { s.mem with ilv := storeCell s.mem.ilv i v } } : State).ilvAt j =
      if j = i then v else s.ilvAt j :=
  getD_lookupCell_storeCell s.mem.ilv i j v _

theorem chAt_setChCells_storeCell (s : State) (c : Channel) (i j : Nat) (v : F32) :
    (s.setChCells c (storeCell (s.chCells c) i v)).chAt c j = if j = i then v else s.chAt c j := by
  unfold State.chAt
  rw [setChCells_chCells_self, setChCells_powerUps]
  exact getD_lookupCell_storeCell (s.chCells c) i j v _

theorem setChCells_chAt_other (s : State) (c : Channel) (m : Cells 32) (i : Nat) :
    (s.setChCells c m).chAt c.other i = s.chAt c.other i := by
  cases c <;> rfl

/-! ## What a store to a buffer memory leaves alone -/

/-- Everything but the five buffer memories and the model's counter for free NaN bits. -/
def SameOutsideBuffers (s t : State) : Prop :=
  SameSurroundings s t ∧ SameLengths s t ∧ (∀ c, SameChain c s t) ∧
  t.status = s.status ∧ t.result = s.result ∧ t.errword = s.errword

/-- Of the memory spaces only the delay memories are part of a chain. -/
theorem sameOutsideBuffers_of_delays (s : State) {m : Memory} (h0 : m.dly0 = s.mem.dly0) (h1 : m.dly1 = s.mem.dly1) :
    SameOutsideBuffers s { s with mem := m } := by
  have hdelays (c : Channel) : ({ s with mem := m } : State).delays c = s.delays c := by
    cases c
    · exact h0
    · exact h1
  have hring (c : Channel) (k : Nat) : ({ s with mem := m } : State).ring c k = s.ring c k := by
    unfold State.ring
    rw [hdelays]
  exact ⟨⟨rfl, rfl, rfl, rfl⟩, ⟨rfl, rfl, fun _ => rfl, rfl⟩, fun c => ⟨rfl, rfl, fun _ => rfl, hring c⟩, rfl, rfl, rfl⟩

theorem sameOutsideBuffers_setChCells (s : State) (c : Channel) (m : Cells 32) :
    SameOutsideBuffers s (s.setChCells c m) := by
  cases c
  · exact sameOutsideBuffers_of_delays s rfl rfl
  · exact sameOutsideBuffers_of_delays s rfl rfl

/-! ## HostWrite (R46, R47) -/

section HostWrite

variable {s : State} {i : Nat}

theorem hostWrite_pcmin_of_lt (h : i < 2 * s.maxf) (v : Pcm16) :
    s.hostWrite (.pcmin i v) = { s with mem := { s.mem with pcmin := storeCell s.mem.pcmin i v } } :=
  if_pos h

theorem hostWrite_pcmin_of_le (h : 2 * s.maxf ≤ i) (v : Pcm16) : s.hostWrite (.pcmin i v) = s :=
  if_neg (Nat.not_lt.mpr h)

theorem hostWrite_ilv_of_lt (h : i < 2 * s.maxf) (v : F32) :
    s.hostWrite (.ilv i v) = { s with mem := { s.mem with ilv := storeCell s.mem.ilv i v } } :=
  if_pos h

theorem hostWrite_ilv_of_le (h : 2 * s.maxf ≤ i) (v : F32) : s.hostWrite (.ilv i v) = s :=
  if_neg (Nat.not_lt.mpr h)

theorem hostWrite_ch_of_lt (h : i < s.maxf) (c : Channel) (v : F32) :
    s.hostWrite (.ch c i v) = s.setChCells c (storeCell (s.chCells c) i v) :=
  if_pos h

theorem hostWrite_ch_of_le (h : s.maxf ≤ i) (c : Channel) (v : F32) : s.hostWrite (.ch c i v) = s :=
  if_neg (Nat.not_lt.mpr h)

/-- The RW registers are REG:5 to REG:8; the index need not exist (R46, R47). -/
theorem writeReg_of_readOnly (h : i < 5 ∨ 8 < i) (v : Word) : s.writeReg i v = s := by
  unfold State.writeReg
  split
  case h_5 => rfl
  all_goals omega

end HostWrite

/-- Settles O11: in range the write is a `storeCell`, whose element and frame the lemmas above give. -/
theorem hostWriteStoresTheElement : Obligations.HostWriteStoresTheElement := by
  refine ⟨fun s w rest h => step_of_inbox_cons h, fun s => ⟨?pcmin, ?ilv, ?ch, ?lengths, ?readOnly, ?slot, ?pcmout⟩⟩
  case pcmin =>
    exact fun i v h => ⟨_, hostWrite_pcmin_of_lt h v, fun j => pcminAt_storeCell s i j v,
      fun _ => rfl, fun _ _ => rfl, fun _ => rfl, sameOutsideBuffers_of_delays s rfl rfl⟩
  case ilv =>
    exact fun i v h => ⟨_, hostWrite_ilv_of_lt h v, fun j => ilvAt_storeCell s i j v,
      fun _ => rfl, fun _ _ => rfl, fun _ => rfl, sameOutsideBuffers_of_delays s rfl rfl⟩
  case ch =>
    exact fun c i v h => ⟨_, hostWrite_ch_of_lt h c v, fun j => chAt_setChCells_storeCell s c i j v,
      setChCells_pcminAt s c _, setChCells_ilvAt s c _, setChCells_chAt_other s c _, setChCells_pcmoutAt s c _,
      sameOutsideBuffers_setChCells s c _⟩
  case lengths => exact fun v => ⟨rfl, rfl, rfl, rfl⟩
  case readOnly => exact fun i v h => writeReg_of_readOnly (h.imp id And.left) v
  case slot => exact fun c k f v => rfl
  case pcmout => exact fun i v => rfl

/-! ## HostRead out of range (R47) -/

theorem readReg_of_le (s : State) {i : Nat} (h : 12 ≤ i) : s.readReg i = 0#32 := by
  obtain ⟨n, rfl⟩ := Nat.exists_eq_add_of_le' h
  rfl

theorem field_of_le (r : Slot) {f : Nat} (h : 19 ≤ f) : r.field f = 0#64 := by
  obtain ⟨n, rfl⟩ := Nat.exists_eq_add_of_le' h
  rfl

/-- Each of the three indices of SLOT has a range of its own. -/
theorem readSlot_of_outOfRange (s : State) {c k f : Nat} (h : 2 ≤ c ∨ s.nslot.toNat ≤ k ∨ 19 ≤ f) :
    s.readSlot c k f = 0#64 := by
  unfold State.readSlot
  split
  case isTrue => rfl
  case isFalse hk =>
    split
    case h_1 => exact field_of_le _ (by omega)
    case h_2 => exact field_of_le _ (by omega)
    case h_3 => rfl

/-- Settles O12: every space falls to the arm of its read or write for an index that does not exist. -/
theorem hostOutOfRangeIsInert : Obligations.HostOutOfRangeIsInert := by
  refine fun s => ⟨?readReg, ?readSlot, ?readPcmin, ?readIlv, ?readCh, ?readPcmout,
    ?writeReg, ?writePcmin, ?writeIlv, ?writeCh, ?writeSlot, ?writePcmout⟩
  case readReg => exact fun i h => congrArg HostValue.word (readReg_of_le s h)
  case readSlot => exact fun c k f h => congrArg HostValue.dword (readSlot_of_outOfRange s h)
  case readPcmin => exact fun i h => congrArg HostValue.half (if_neg (Nat.not_lt.mpr h))
  case readIlv => exact fun i h => congrArg HostValue.word (if_neg (Nat.not_lt.mpr h))
  case readCh => exact fun c i h => congrArg HostValue.word (if_neg (Nat.not_lt.mpr h))
  case readPcmout => exact fun i h => congrArg HostValue.half (if_neg (Nat.not_lt.mpr h))
  case writeReg => exact fun i v h => writeReg_of_readOnly (by omega) v
  case writePcmin => exact fun i v h => hostWrite_pcmin_of_le h v
  case writeIlv => exact fun i v h => hostWrite_ilv_of_le h v
  case writeCh => exact fun c i v h => hostWrite_ch_of_le h c v
  case writeSlot => exact fun c k f v _ => rfl
  case writePcmout => exact fun i v _ => rfl

end Machine
end Sys2Proof
end

section
/-! The decoder as a case split (30_encoding.md R63 to R66): the number of words by OPC, what a packet that decodes passed
on the way, and the instructions of the OPC with nine words. -/

namespace Sys2Proof

/-! ## The number of words (R63) -/

/-- The four values of OPC that take operand words are the only ones with a number of words of their own. -/
theorem packetWords_eq_one {opc : BitVec 8} (h30 : opc ≠ 0x30#8) (h31 : opc ≠ 0x31#8) (h32 : opc ≠ 0x32#8)
    (h40 : opc ≠ 0x40#8) : packetWords opc = 1 := by
  unfold packetWords
  split
  case h_1 h => exact absurd (BitVec.eq_of_toNat_eq h) h30
  case h_2 h => exact absurd (BitVec.eq_of_toNat_eq h) h31
  case h_3 h => exact absurd (BitVec.eq_of_toNat_eq h) h32
  case h_4 h => exact absurd (BitVec.eq_of_toNat_eq h) h40
  case h_5 => rfl

theorem packetWords_eq_nine_iff {opc : BitVec 8} : packetWords opc = 9 ↔ opc = 0x40#8 := by
  constructor
  case mpr =>
    rintro rfl
    rfl
  case mp =>
    intro h
    unfold packetWords at h
    split at h
    case h_4 h40 => exact BitVec.eq_of_toNat_eq h40
    all_goals omega

/-! ## The stages of the decoder -/

theorem decode_of_wrongLength {w : Word} {operands : List Word}
    (h : operands.length + 1 ≠ packetWords (opcOf w)) : decode (w :: operands) = .error .wrongLength :=
  if_pos h

/-- A packet decodes when its length fits its OPC, its bits 15:1 are zero and its OPC's row takes it. -/
theorem decode_cons_eq_ok_iff {w : Word} {operands : List Word} {i : Instr} :
    decode (w :: operands) = .ok i ↔
      operands.length + 1 = packetWords (opcOf w) ∧ zeroOf w = 0#15 ∧ decodeByOpcode w operands = .ok i := by
  rw [decode]
  split
  case isTrue hlen => simp [hlen]
  case isFalse hlen =>
    split
    case isTrue hzero => simp [hzero]
    case isFalse hzero => simp [not_not.mp hlen, not_not.mp hzero]

/-- The eight operand words of OPC 0x40 are four operands, each the less significant word first (R64, R65). -/
theorem decodeByOpcode_biquad {w : Word} (h : opcOf w = 0x40#8) (r0 r1 f0 f1 g0 g1 p0 p1 : Word) :
    decodeByOpcode w [r0, r1, f0, f1, g0, g1, p0, p1] =
      decodeB w ⟨operand64 r0 r1, operand64 f0 f1, operand64 g0 g1, operand64 p0 p1⟩ := by
  unfold decodeByOpcode
  rw [h]
  rfl

/-- Whatever TYPE selects, the operands are passed on as they are (R66). -/
theorem decodeB_eq_ok {w : Word} {ops : BiquadOperands} {i : Instr} (h : decodeB w ops = .ok i) :
    ∃ type, i = Machine.biquadInstr type (channelOfBit (chOf w)) (paramKindOfBits (pkOf w)) ops := by
  unfold decodeB at h
  split at h
  case h_9 => cases h
  all_goals obtain rfl := Except.ok.inj h
  case h_1 => exact ⟨.lowPass, rfl⟩
  case h_2 => exact ⟨.highPass, rfl⟩
  case h_3 => exact ⟨.bandPass, rfl⟩
  case h_4 => exact ⟨.notch, rfl⟩
  case h_5 => exact ⟨.audioPeak, rfl⟩
  case h_6 => exact ⟨.peakingEq, rfl⟩
  case h_7 => exact ⟨.lowShelf, rfl⟩
  case h_8 => exact ⟨.highShelf, rfl⟩

/-! ## The statements -/

/-- Settles O4: `packetWords` by its cases, and the length is the decoder's first test. -/
theorem packetLengthByOpcode : Obligations.PacketLengthByOpcode :=
  ⟨rfl, rfl, rfl, rfl, fun _ => packetWords_eq_one, fun _ _ h => ⟨.wrongLength, decode_of_wrongLength h⟩⟩

/-- Settles O5: only OPC 0x40 takes nine words, and there the decoder pairs the words into the operands. -/
theorem operandHalvesLowFirst : Obligations.OperandHalvesLowFirst := by
  intro w w1 w2 w3 w4 w5 w6 w7 w8 i h
  obtain ⟨hlen, -, hrow⟩ := decode_cons_eq_ok_iff.mp h
  have hopc : opcOf w = 0x40#8 := packetWords_eq_nine_iff.mp hlen.symm
  rw [decodeByOpcode_biquad hopc] at hrow
  obtain ⟨type, htype⟩ := decodeB_eq_ok hrow
  exact ⟨type, _, _, htype⟩

end Sys2Proof
end

section
/-! The sample codec's two commands (41_sample_codec.md R101, R103). The first two parts are about any command: what its
completion records and leaves alone, and what a loop of writes from element 0 up leaves in ILV and in PCMOUT. -/

namespace Sys2Proof
namespace Machine

/-! ## What the completion of a command records (R220) -/

theorem ResultCode.number_eq_zero_iff (code : ResultCode) : code.number = 0 ↔ code = .ok := by
  cases code <;> simp [ResultCode.number]

/-- The flag of an error is the STATUS bit one below its code's number (10_state.md R14). -/
theorem ResultCode.flag_eq_shiftLeft {code : ResultCode} (h : code ≠ .ok) :
    code.flag = 1#32 <<< (code.number - 1) := by
  cases code
  case ok => exact absurd rfl h
  all_goals rfl

/-- A command that has not touched the record before it completes leaves the record of its code. -/
theorem recorded_complete {s u : State} (code : ResultCode) (w : Word) (hstatus : u.status = s.status)
    (herrword : u.errword = s.errword) (htick : u.freeTick = s.freeTick) :
    Recorded code.number w s (u.complete code w) := by
  refine ⟨complete_result u code w, fun hzero => ?ok, fun hnonzero => ?error, ?tick⟩
  case ok =>
    obtain rfl := code.number_eq_zero_iff.mp hzero
    exact ⟨hstatus, herrword⟩
  case error =>
    have hcode : code ≠ .ok := fun h => hnonzero (code.number_eq_zero_iff.mpr h)
    rw [complete_status, complete_errword, if_neg hcode, hstatus, code.flag_eq_shiftLeft hcode]
    exact ⟨rfl, rfl⟩
  case tick => rw [complete_freeTick, htick]

/-! ## What the completion of a command leaves alone -/

section CompleteFrame

variable {s u : State} {code : ResultCode} {w : Word}

@[simp] theorem sameSurroundings_complete : SameSurroundings s (u.complete code w) ↔ SameSurroundings s u := by
  simp [SameSurroundings]

@[simp] theorem sameLengths_complete : SameLengths s (u.complete code w) ↔ SameLengths s u := by
  simp [SameLengths]

@[simp] theorem samePcmin_complete : SamePcmin s (u.complete code w) ↔ SamePcmin s u := by
  simp [SamePcmin]

@[simp] theorem sameIlv_complete : SameIlv s (u.complete code w) ↔ SameIlv s u := by
  simp [SameIlv]

@[simp] theorem sameCh_complete {c : Channel} : SameCh c s (u.complete code w) ↔ SameCh c s u := by
  simp [SameCh]

@[simp] theorem samePcmout_complete : SamePcmout s (u.complete code w) ↔ SamePcmout s u := by
  simp [SamePcmout]

@[simp] theorem sameBuffers_complete : SameBuffers s (u.complete code w) ↔ SameBuffers s u := by
  simp [SameBuffers]

@[simp] theorem sameChain_complete {c : Channel} : SameChain c s (u.complete code w) ↔ SameChain c s u := by
  simp [SameChain]

@[simp] theorem sameButRecord_complete : SameButRecord s (u.complete code w) ↔ SameButRecord s u := by
  simp [SameButRecord]

end CompleteFrame

theorem sameButRecord_refl (s : State) : SameButRecord s s :=
  ⟨⟨rfl, rfl, rfl, rfl⟩, ⟨rfl, rfl, fun _ => rfl, rfl⟩,
    ⟨fun _ => rfl, fun _ => rfl, fun _ _ => rfl, fun _ => rfl⟩, fun _ => ⟨rfl, rfl, fun _ => rfl, fun _ => rfl⟩⟩

/-- A command that only completes, as one that ends with an error before it has written anything. -/
theorem onlyRecorded_complete (s : State) (code : ResultCode) (w : Word) :
    OnlyRecorded code.number w s (s.complete code w) :=
  ⟨recorded_complete code w rfl rfl rfl, sameButRecord_complete.mpr (sameButRecord_refl s)⟩

/-! ## A command's loop of writes to a buffer memory (20_memory.md R48) -/

theorem getD_lookupCell_storeFrom_elements {α : Type} (m : List (Nat × α)) (f : Nat → α) (n j : Nat) (d : α) :
    (lookupCell (storeFrom m 0 (elements f n)) j).getD d = if j < n then f j else (lookupCell m j).getD d := by
  rw [lookupCell_storeFrom_elements]
  split <;> rfl

/-- ILV and LEN_ILV after a loop that writes the elements below `len`. -/
def State.fillIlv (s : State) (f : Nat → F32) (len : Word) : State :=
  { s with mem := { s.mem with ilv := storeFrom s.mem.ilv 0 (elements f len.toNat) }, lenIlv := len }

theorem fillIlv_ilvAt (s : State) (f : Nat → F32) (len : Word) (i : Nat) :
    (s.fillIlv f len).ilvAt i = if i < len.toNat then f i else s.ilvAt i :=
  getD_lookupCell_storeFrom_elements s.mem.ilv f len.toNat i _

theorem fillIlv_frame (s : State) (f : Nat → F32) (len : Word) :
    SameSurroundings s (s.fillIlv f len) ∧ SamePcmin s (s.fillIlv f len) ∧ (∀ c, SameCh c s (s.fillIlv f len)) ∧
      SamePcmout s (s.fillIlv f len) ∧ ∀ c, SameChain c s (s.fillIlv f len) :=
  ⟨⟨rfl, rfl, rfl, rfl⟩, fun _ => rfl, fun _ _ => rfl, fun _ => rfl,
    fun _ => ⟨rfl, rfl, fun _ => rfl, fun _ => rfl⟩⟩

/-- PCMOUT and LEN_OUT after a loop that writes the elements below `len`. -/
def State.fillPcmout (s : State) (f : Nat → Pcm16) (len : Word) : State :=
  { s with mem := { s.mem with pcmout := storeFrom s.mem.pcmout 0 (elements f len.toNat) }, lenOut := len }

theorem fillPcmout_pcmoutAt (s : State) (f : Nat → Pcm16) (len : Word) (i : Nat) :
    (s.fillPcmout f len).pcmoutAt i = if i < len.toNat then f i else s.pcmoutAt i :=
  getD_lookupCell_storeFrom_elements s.mem.pcmout f len.toNat i _

theorem fillPcmout_frame (s : State) (f : Nat → Pcm16) (len : Word) :
    SameSurroundings s (s.fillPcmout f len) ∧ SamePcmin s (s.fillPcmout f len) ∧ SameIlv s (s.fillPcmout f len) ∧
      (∀ c, SameCh c s (s.fillPcmout f len)) ∧ ∀ c, SameChain c s (s.fillPcmout f len) :=
  ⟨⟨rfl, rfl, rfl, rfl⟩, fun _ => rfl, fun _ => rfl, fun _ _ => rfl,
    fun _ => ⟨rfl, rfl, fun _ => rfl, fun _ => rfl⟩⟩

/-! ## DECODE (R101) -/

theorem exec_decode_of_le {s : State} (h : s.lenIn.toNat ≤ 2 * s.maxf) :
    exec .decode s =
      .next ((s.fillIlv (fun i => decode1 (s.pcminAt i)) s.lenIn).complete .ok Instr.decode.word0) := by
  rw [State.fillIlv, ← elements_map]
  exact if_neg (Nat.not_lt.mpr h)

theorem exec_decode_of_lt {s : State} (h : 2 * s.maxf < s.lenIn.toNat) :
    exec .decode s = .next (s.complete .badLength Instr.decode.word0) :=
  if_pos h

/-- Settles O20: the loop fills ILV below LEN_IN, and where LEN_IN is too long the command only completes. -/
theorem decodeFillsIlv : Obligations.DecodeFillsIlv := by
  refine ⟨rfl, fun s => ⟨fun h => ?fits, fun h => ?tooLong⟩⟩
  case fits =>
    refine ⟨_, exec_decode_of_le h, recorded_complete .ok _ rfl rfl rfl, fun i => ?_, rfl, rfl, fun _ => rfl, rfl, ?_⟩
    · rw [complete_ilvAt, fillIlv_ilvAt]
    · simpa using fillIlv_frame s _ _
  case tooLong => exact ⟨_, exec_decode_of_lt h, onlyRecorded_complete s .badLength _⟩

/-! ## ENCODE (R103) -/

theorem exec_encode_of_le {s : State} (h : s.lenIlv.toNat ≤ 2 * s.maxf) :
    exec .encode s =
      .next ((s.fillPcmout (fun i => encode1 (s.ilvAt i)) s.lenIlv).complete .ok Instr.encode.word0) := by
  rw [State.fillPcmout, ← elements_map]
  exact if_neg (Nat.not_lt.mpr h)

theorem exec_encode_of_lt {s : State} (h : 2 * s.maxf < s.lenIlv.toNat) :
    exec .encode s = .next (s.complete .badLength Instr.encode.word0) :=
  if_pos h

/-- Settles O21: the loop fills PCMOUT below LEN_ILV, whatever the samples are, and BadLength is the only error. -/
theorem encodeFillsPcmout : Obligations.EncodeFillsPcmout := by
  refine ⟨rfl, fun s => ⟨fun h => ?fits, fun h => ?tooLong⟩⟩
  case fits =>
    refine ⟨_, exec_encode_of_le h, recorded_complete .ok _ rfl rfl rfl, fun i => ?_, rfl, rfl, rfl, fun _ => rfl, ?_⟩
    · rw [complete_pcmoutAt, fillPcmout_pcmoutAt]
    · simpa using fillPcmout_frame s _ _
  case tooLong => exact ⟨_, exec_encode_of_lt h, onlyRecorded_complete s .badLength _⟩

end Machine
end Sys2Proof
end

section
/-! MERGE (42_channel_interleaver.md R111): the interleaved order by even and odd indices, the length it leaves, and the
command in each of its three cases of lengths. -/

namespace Sys2Proof
namespace Machine

/-! ## The interleaved order -/

@[simp] theorem interleave_even {α : Type} (a b : Nat → α) (j : Nat) : interleave a b (2 * j) = a j := by
  have hparity : 2 * j % 2 = 0 := by omega
  have hhalf : 2 * j / 2 = j := by omega
  rw [interleave, if_pos hparity, hhalf]

@[simp] theorem interleave_odd {α : Type} (a b : Nat → α) (j : Nat) : interleave a b (2 * j + 1) = b j := by
  have hparity : (2 * j + 1) % 2 ≠ 0 := by omega
  have hhalf : (2 * j + 1) / 2 = j := by omega
  rw [interleave, if_neg hparity, hhalf]

/-! ## The length that MERGE leaves -/

/-- MAXF is a field of 24 bits (10_state.md R13). -/
theorem maxf_lt (s : State) : s.maxf < 2 ^ 24 := BitVec.isLt _

/-- A length within MAXF leaves LEN_ILV room for its double. -/
theorem toNat_ofNat_double {s : State} {n : Nat} (h : n ≤ s.maxf) : (BitVec.ofNat 32 (2 * n)).toNat = 2 * n := by
  have hmaxf := maxf_lt s
  rw [BitVec.toNat_ofNat]
  exact Nat.mod_eq_of_lt (by omega)

/-! ## MERGE -/

section Merge

variable {s : State}

/-- ILV and LEN_ILV after a MERGE of two buffers as long as CH0. -/
def State.mergeFrames (s : State) : State :=
  s.fillIlv (interleave (s.chAt .ch0) (s.chAt .ch1)) (BitVec.ofNat 32 (2 * s.lenCh0.toNat))

theorem mergeFrames_lenIlv (h : s.lenCh0.toNat ≤ s.maxf) : s.mergeFrames.lenIlv.toNat = 2 * s.lenCh0.toNat :=
  toNat_ofNat_double h

theorem mergeFrames_ilvAt (h : s.lenCh0.toNat ≤ s.maxf) (i : Nat) :
    s.mergeFrames.ilvAt i =
      if i < 2 * s.lenCh0.toNat then interleave (s.chAt .ch0) (s.chAt .ch1) i else s.ilvAt i := by
  rw [State.mergeFrames, fillIlv_ilvAt, toNat_ofNat_double h]

theorem mergeFrames_ilvAt_even (h : s.lenCh0.toNat ≤ s.maxf) (j : Nat) :
    s.mergeFrames.ilvAt (2 * j) = if j < s.lenCh0.toNat then s.chAt .ch0 j else s.ilvAt (2 * j) := by
  have hrange : 2 * j < 2 * s.lenCh0.toNat ↔ j < s.lenCh0.toNat := by omega
  simp only [mergeFrames_ilvAt h, hrange, interleave_even]

theorem mergeFrames_ilvAt_odd (h : s.lenCh0.toNat ≤ s.maxf) (j : Nat) :
    s.mergeFrames.ilvAt (2 * j + 1) = if j < s.lenCh0.toNat then s.chAt .ch1 j else s.ilvAt (2 * j + 1) := by
  have hrange : 2 * j + 1 < 2 * s.lenCh0.toNat ↔ j < s.lenCh0.toNat := by omega
  simp only [mergeFrames_ilvAt h, hrange, interleave_odd]

theorem exec_merge_of_lengths_eq (h : s.lenCh0.toNat ≤ s.maxf) (heq : s.lenCh1 = s.lenCh0) :
    exec .merge s = .next (s.mergeFrames.complete .ok Instr.merge.word0) := by
  have hfits : ¬(s.maxf < s.lenCh0.toNat ∨ s.maxf < s.lenCh1.toNat) := by
    rw [heq, or_self]
    exact Nat.not_lt.mpr h
  have hsame : ¬(s.lenCh0.toNat ≠ s.lenCh1.toNat) := by simp [heq]
  rw [State.mergeFrames, State.fillIlv, toNat_ofNat_double h]
  exact (if_neg hfits).trans (if_neg hsame)

/-- BadLength comes before LengthMismatch (60_exceptions.md R219). -/
theorem exec_merge_of_tooLong (h : s.maxf < s.lenCh0.toNat ∨ s.maxf < s.lenCh1.toNat) :
    exec .merge s = .next (s.complete .badLength Instr.merge.word0) :=
  if_pos h

theorem exec_merge_of_lengths_ne (h0 : s.lenCh0.toNat ≤ s.maxf) (h1 : s.lenCh1.toNat ≤ s.maxf)
    (hne : s.lenCh0 ≠ s.lenCh1) : exec .merge s = .next (s.complete .lengthMismatch Instr.merge.word0) := by
  have hfits : ¬(s.maxf < s.lenCh0.toNat ∨ s.maxf < s.lenCh1.toNat) := by omega
  have hdiffer : s.lenCh0.toNat ≠ s.lenCh1.toNat := fun h => hne (BitVec.eq_of_toNat_eq h)
  exact (if_neg hfits).trans (if_pos hdiffer)

end Merge

/-- Settles O23: the loop fills ILV with the frames, its even and odd elements are those of CH0 and CH1, and where a
length does not fit or the two differ the command only completes. -/
theorem mergeInterleaves : Obligations.MergeInterleaves := by
  refine ⟨rfl, fun s => ⟨fun h heq => ?equal, fun h => ?tooLong, fun h0 h1 hne => ?differ⟩⟩
  case equal =>
    refine ⟨_, exec_merge_of_lengths_eq h heq, recorded_complete .ok _ rfl rfl rfl, fun j => ?even, fun j => ?odd,
      ?length, rfl, fun _ => rfl, rfl, ?frame⟩
    case even => rw [complete_ilvAt, mergeFrames_ilvAt_even h]
    case odd => rw [complete_ilvAt, mergeFrames_ilvAt_odd h]
    case length => rw [complete_lenIlv, mergeFrames_lenIlv h]
    case frame => simpa [State.mergeFrames] using fillIlv_frame s _ _
  case tooLong => exact ⟨_, exec_merge_of_tooLong h, onlyRecorded_complete s .badLength _⟩
  case differ => exact ⟨_, exec_merge_of_lengths_ne h0 h1 hne, onlyRecorded_complete s .lengthMismatch _⟩

end Machine
end Sys2Proof
end

section
/-! The two commands that set a chain's STATE and nothing of a buffer: CH.CLEAR and CH.ACT (43_filter_chain.md R122, R123).
The first part is about any command that works on one channel's chain: what lies outside that chain. -/

namespace Sys2Proof
namespace Machine

/-! ## What lies outside the chain of one channel -/

/-- Everything but the record and the chain of channel `c`. -/
def SameOutsideChain (c : Channel) (s t : State) : Prop :=
  SameSurroundings s t ∧ SameLengths s t ∧ SameBuffers s t ∧ SameChain c.other s t

/-- A channel's chain is its CHAINc with its slots, and its delay memories. -/
theorem sameChain_of_eq {c : Channel} {s t : State} (hchain : t.chain c = s.chain c)
    (hdelays : t.delays c = s.delays c) : SameChain c s t := by
  have hslot (k : Nat) : t.slot c k = s.slot c k := by rw [State.slot, hchain, State.slot]
  have hring (k : Nat) : t.ring c k = s.ring c k := by rw [State.ring, hdelays, State.ring]
  exact ⟨congrArg Chain.phase hchain, congrArg Chain.nfilt hchain, hslot, hring⟩

@[simp] theorem sameOutsideChain_complete {c : Channel} {s u : State} {code : ResultCode} {w : Word} :
    SameOutsideChain c s (u.complete code w) ↔ SameOutsideChain c s u := by
  simp [SameOutsideChain]

theorem sameOutsideChain_setChain (s : State) (c : Channel) (ch : Chain) : SameOutsideChain c s (s.setChain c ch) := by
  refine ⟨?surroundings, ?lengths, ?buffers, ?chain⟩
  case surroundings => simp [SameSurroundings]
  case lengths => simp [SameLengths]
  case buffers => simp [SameBuffers, SamePcmin, SameIlv, SameCh, SamePcmout]
  case chain => exact sameChain_of_eq (setChain_chain_other s c ch) (setChain_delays s c ch c.other)

theorem sameOutsideChain_clearChain (s : State) (c : Channel) : SameOutsideChain c s (s.clearChain c) := by
  refine ⟨?surroundings, ?lengths, ?buffers, ?chain⟩
  case surroundings => simp [SameSurroundings]
  case lengths => simp [SameLengths]
  case buffers => simp [SameBuffers, SamePcmin, SameIlv, SameCh, SamePcmout]
  case chain => exact sameChain_of_eq (clearChain_chain_other s c) (clearChain_delays_other s c)

/-! ## What becomes of the chain itself -/

@[simp] theorem clearChain_ring_self (s : State) (c : Channel) (k : Nat) : (s.clearChain c).ring c k = [] := by
  rw [State.ring, clearChain_delays_self]
  rfl

/-- A new STATE leaves the slots as they are. -/
@[simp] theorem setChain_withPhase_slot_self (s : State) (c : Channel) (p : ChainPhase) (k : Nat) :
    (s.setChain c { s.chain c with phase := p }).slot c k = s.slot c k := by
  rw [State.slot, setChain_chain_self, State.slot]

/-! ## CH.CLEAR (R122) -/

theorem word0_chClear (c : Channel) : (Instr.chClear c).word0 = 0x20000000#32 + chBit c := by
  cases c <;> rfl

theorem encode_chClear (c : Channel) : encode (.chClear c) = [0x20000000#32 + chBit c] :=
  congrArg (fun w => [w]) (word0_chClear c)

theorem exec_chClear (c : Channel) (s : State) :
    exec (.chClear c) s = .next ((s.clearChain c).complete .ok (0x20000000#32 + chBit c)) := by
  rw [← word0_chClear]
  rfl

/-- Settles O28: whatever the chain's STATE, the command is `clearChain` and its completion. -/
theorem clearTearsTheChainDown : Obligations.ClearTearsTheChainDown := by
  refine fun c s => ⟨encode_chClear c, _, exec_chClear c s, ?record, ?phase, ?nfilt, ?slot, ?ring, ?frame⟩
  case record =>
    exact recorded_complete .ok _ (clearChain_status s c) (clearChain_errword s c) (clearChain_freeTick s c)
  case phase => rw [complete_chain, clearChain_chain_self, Chain.initial]
  case nfilt => rw [complete_chain, clearChain_chain_self, Chain.initial]
  case slot => exact fun k => by rw [complete_slot, clearChain_slot_self]
  case ring => exact fun k => by rw [complete_ring, clearChain_ring_self]
  case frame => exact sameOutsideChain_complete.mpr (sameOutsideChain_clearChain s c)

/-! ## CH.ACT (R123) -/

theorem word0_chAct (c : Channel) : (Instr.chAct c).word0 = 0x21000000#32 + chBit c := by
  cases c <;> rfl

theorem encode_chAct (c : Channel) : encode (.chAct c) = [0x21000000#32 + chBit c] :=
  congrArg (fun w => [w]) (word0_chAct c)

theorem exec_chAct_of_not_failed {c : Channel} {s : State} (h : (s.chain c).phase ≠ .failed) :
    exec (.chAct c) s =
      .next ((s.setChain c { s.chain c with phase := .active }).complete .ok (0x21000000#32 + chBit c)) := by
  rw [← word0_chAct]
  exact if_neg h

theorem exec_chAct_of_failed {c : Channel} {s : State} (h : (s.chain c).phase = .failed) :
    exec (.chAct c) s = .next (s.complete .chainState (0x21000000#32 + chBit c)) := by
  rw [← word0_chAct]
  exact if_pos h

/-- Settles O29: unless the chain is FAILED the command writes its STATE and completes, and on a FAILED one it only
completes. -/
theorem activationNeedsAnUnfailedChain : Obligations.ActivationNeedsAnUnfailedChain := by
  refine fun c s => ⟨encode_chAct c, fun h => ?activated, fun h => ?failed⟩
  case activated =>
    refine ⟨_, exec_chAct_of_not_failed h, ?record, ?phase, ?nfilt, ?slot, ?ring, ?frame⟩
    case record =>
      exact recorded_complete .ok _ (setChain_status s c _) (setChain_errword s c _) (setChain_freeTick s c _)
    case phase => rw [complete_chain, setChain_chain_self]
    case nfilt => rw [complete_chain, setChain_chain_self]
    case slot => exact fun k => by rw [complete_slot, setChain_withPhase_slot_self]
    case ring => exact fun k => by rw [complete_ring, setChain_ring]
    case frame => exact sameOutsideChain_complete.mpr (sameOutsideChain_setChain s c _)
  case failed => exact ⟨_, exec_chAct_of_failed h, onlyRecorded_complete s .chainState _⟩

end Machine
end Sys2Proof
end

section
/-! Delay lines (44_delay_line.md R140 to R143): the step on one sample, and the two constructors. The parts before the
constructors are about any CFG command: the errors of its common procedure, and what a commit leaves
(43_filter_chain.md R125). -/

namespace Sys2Proof
namespace Machine

/-! ## One step (R143) -/

section DelayStep

variable {r : Slot}

/-- CLAMPED is bit 16 of KIND, so it is no part of the code that selects the filter (10_state.md R23). -/
theorem Slot.IsDelay.kindCode_eq (h : r.IsDelay) : r.kindCode = 1 := by
  obtain ⟨hkind, -⟩ := h
  unfold Slot.kindCode
  rcases hkind with hkind | ⟨hkind, -⟩
  · rw [hkind]; rfl
  · rw [hkind]; rfl

theorem stepFilter_of_isDelay (h : r.IsDelay) (free : Nat → BitVec 64) (ring : Cells 32) (x : F32) :
    stepFilter free (r, ring) x = stepDelay r ring x := by
  simp only [stepFilter, h.kindCode_eq]

/-- The advanced HEAD is below TAPS, so its 64-bit field holds it whole. -/
theorem stepDelay_head_toNat (h : r.IsDelay) (ring : Cells 32) (x : F32) :
    (stepDelay r ring x).2.1.head.toNat = (r.head.toNat + 1) % r.taps.toNat := by
  obtain ⟨-, hpos, hle, -⟩ := h
  have hlt : (r.head.toNat + 1) % r.taps.toNat < r.taps.toNat := Nat.mod_lt _ hpos
  rw [stepDelay, BitVec.toNat_ofNat, Nat.mod_eq_of_lt (by omega)]

theorem readOr_stepDelay_ring (r : Slot) (ring : Cells 32) (x : F32) (j : Nat) :
    readOr 0#32 (stepDelay r ring x).2.2 j = if j = r.head.toNat then x else readOr 0#32 ring j :=
  readOr_storeOr 0#32 ring r.head.toNat j x

end DelayStep

/-- Settles O32: KIND selects the delay step, whose HEAD and delay memory the lemmas above give. -/
theorem delayStepSwapsAtHead : Obligations.DelayStepSwapsAtHead := by
  rintro free ⟨r, ring⟩ x h
  exact ⟨(stepDelay r ring x).2, stepFilter_of_isDelay h free ring x, rfl, stepDelay_head_toNat h ring x,
    readOr_stepDelay_ring r ring x⟩

/-! ## The errors of a CFG command (43_filter_chain.md R125) -/

section ConfigurationErrors

variable {s : State} {c : Channel}

theorem CanBuild.nfilt_ne (h : CanBuild c s) : (s.chain c).nfilt ≠ s.nslot :=
  fun heq => h.2.ne (congrArg BitVec.toNat heq)

theorem cfgBegin_of_not_opened (w : Word) (build : Nat → State) (h : (s.chain c).phase ≠ .opened) :
    s.cfgBegin c w build = s.complete .chainState w :=
  if_pos h

theorem cfgBegin_of_full (w : Word) (build : Nat → State) (hopen : (s.chain c).phase = .opened)
    (hfull : (s.chain c).nfilt = s.nslot) : s.cfgBegin c w build = (s.failChain c).complete .chainFull w := by
  rw [State.cfgBegin, if_neg (not_not_intro hopen), if_pos hfull]

theorem cfgBegin_of_canBuild (w : Word) (build : Nat → State) (h : CanBuild c s) :
    s.cfgBegin c w build = build (s.chain c).nfilt.toNat :=
  cfgBegin_open s w build h.1 h.nfilt_ne

/-- An error that takes the chain to FAILED writes its STATE and completes. -/
theorem failsChain_complete (s : State) (c : Channel) (code : ResultCode) (w : Word) :
    FailsChain code.number w c s ((s.failChain c).complete code w) := by
  obtain ⟨hsurroundings, hlengths, hbuffers, hother⟩ :=
    sameOutsideChain_complete.mpr (sameOutsideChain_setChain s c { s.chain c with phase := .failed })
  refine ⟨?record, hsurroundings, hlengths, hbuffers, ?failed, hother⟩
  case record =>
    exact recorded_complete code w (failChain_status s c) (failChain_errword s c) (failChain_freeTick s c)
  case failed => simp [OnlyFailed]

/-- The errors of any CFG command: two are `cfg_begin`'s, and the third is its own validation's. -/
theorem cfgErrors_of_cfgBegin {i : Instr} {w : Word} {invalid : Prop} {build : Nat → State}
    (hexec : exec i s = .next (s.cfgBegin c w build)) (hinvalid : invalid → ∀ k, build k = s.cfgFail c w) :
    CfgErrors i c w invalid s := by
  refine ⟨fun hphase => ?chainState, fun hopen hfull => ?chainFull, fun hbuild hinv => ?invalidParameter⟩
  case chainState =>
    rw [hexec, cfgBegin_of_not_opened w build hphase]
    exact ⟨_, rfl, onlyRecorded_complete s .chainState w⟩
  case chainFull =>
    rw [hexec, cfgBegin_of_full w build hopen hfull]
    exact ⟨_, rfl, failsChain_complete s c .chainFull w⟩
  case invalidParameter =>
    rw [hexec, cfgBegin_of_canBuild w build hbuild, hinvalid hinv]
    exact ⟨_, rfl, failsChain_complete s c .invalidParameter w⟩

end ConfigurationErrors

/-! ## What a commit leaves (43_filter_chain.md R125) -/

theorem sameOutsideChain_cfgCommit (s : State) (c : Channel) (k : Nat) (r : Slot) :
    SameOutsideChain c s (s.cfgCommit c k r) := by
  refine ⟨?surroundings, ?lengths, ?buffers, ?chain⟩
  case surroundings => simp [SameSurroundings]
  case lengths => simp [SameLengths]
  case buffers => simp [SameBuffers, SamePcmin, SameIlv, SameCh, SamePcmout]
  case chain => exact sameChain_of_eq (cfgCommit_chain_other s c k r) (cfgCommit_delays_other s c k r)

/-- Below NSLOT, which has eight bits as NFILT has, the count of slots goes up without wrapping. -/
theorem cfgCommit_nfilt_toNat {s : State} {c : Channel} (h : CanBuild c s) (r : Slot) :
    ((s.cfgCommit c (s.chain c).nfilt.toNat r).chain c).nfilt.toNat = (s.chain c).nfilt.toNat + 1 := by
  obtain ⟨-, hfree⟩ := h
  have hnslot : s.nslot.toNat < 2 ^ 8 := s.nslot.isLt
  rw [cfgCommit_nfilt_self, BitVec.toNat_ofNat, Nat.mod_eq_of_lt (by omega)]

/-- A commit to the first free slot and its completion build exactly that slot, whatever its kind. -/
theorem built_cfgCommit_complete {s : State} {c : Channel} (h : CanBuild c s) (r : Slot) (code : ResultCode)
    (w : Word) : Built c r s ((s.cfgCommit c (s.chain c).nfilt.toNat r).complete code w) := by
  obtain ⟨hsurroundings, hlengths, hbuffers, hother⟩ :=
    sameOutsideChain_complete.mpr (sameOutsideChain_cfgCommit s c (s.chain c).nfilt.toNat r)
  refine ⟨hsurroundings, hlengths, hbuffers, hother, ?phase, ?nfilt, ?slot, fun j => ?zeros,
    fun k hk => ⟨?slots, ?rings⟩⟩
  case phase => rw [complete_chain, cfgCommit_phase, h.1]
  case nfilt => rw [complete_chain, cfgCommit_nfilt_toNat h]
  case slot => rw [complete_slot, cfgCommit_slot_self]
  case zeros => rw [complete_ring, cfgCommit_ring, if_pos ⟨rfl, rfl⟩, readOr_nil]
  case slots => rw [complete_slot, cfgCommit_slot, if_neg fun heq => hk heq.2]
  case rings => rw [complete_ring, cfgCommit_ring, if_neg fun heq => hk heq.2]

theorem recorded_cfgCommit_complete (s : State) (c : Channel) (k : Nat) (r : Slot) (code : ResultCode) (w : Word) :
    Recorded code.number w s ((s.cfgCommit c k r).complete code w) :=
  recorded_complete code w (cfgCommit_status s c k r) (cfgCommit_errword s c k r) (cfgCommit_freeTick s c k r)

/-! ## The tap count (R142) -/

theorem coerceTaps_of_le {n : Nat} (h : n ≤ 2 ^ 28) : coerceTaps n = (max 1 n, false) := by
  rw [coerceTaps, Config.tapMax, if_neg (Nat.not_lt.mpr h)]
  split
  case isTrue hzero => rw [hzero]; rfl
  case isFalse hpos => rw [Nat.max_eq_right (Nat.one_le_iff_ne_zero.mpr hpos)]

theorem coerceTaps_of_lt {n : Nat} (h : 2 ^ 28 < n) : coerceTaps n = (1, true) :=
  if_pos h

theorem delaySlot_taps_toNat {n : Nat} (h : n ≤ 2 ^ 28) (clamped : Bool) :
    (delaySlot (max 1 n) clamped).taps.toNat = max 1 n := by
  rw [delaySlot, BitVec.toNat_ofNat, Nat.mod_eq_of_lt (by omega)]

/-- The tap count as a field: the operand word zero-extended, but for 0. -/
theorem delaySlot_of_word (taps : Word) :
    delaySlot (max 1 taps.toNat) false =
      { Slot.empty with kind := 1#64, taps := if taps = 0#32 then 1#64 else taps.setWidth 64 } := by
  have htaps : BitVec.ofNat 64 (max 1 taps.toNat) = if taps = 0#32 then 1#64 else taps.setWidth 64 := by
    split
    case isTrue hzero => rw [hzero]; rfl
    case isFalse hpos =>
      have hone : 1 ≤ taps.toNat := by
        rw [Nat.one_le_iff_ne_zero]
        exact fun hzero => hpos (BitVec.eq_of_toNat_eq hzero)
      rw [Nat.max_eq_right hone, BitVec.ofNat_toNat]
  rw [delaySlot, htaps]
  rfl

/-! ## What both constructors build (R140 to R142) -/

section BuildDelay

variable {s : State} {c : Channel} {n : Nat}

theorem buildDelay_of_le (h : CanBuild c s) (hn : n ≤ 2 ^ 28) (w : Word) :
    Recorded 0 w s (s.buildDelay c (s.chain c).nfilt.toNat n w) ∧
      Built c (delaySlot (max 1 n) false) s (s.buildDelay c (s.chain c).nfilt.toNat n w) := by
  rw [State.buildDelay, coerceTaps_of_le hn]
  exact ⟨recorded_cfgCommit_complete s c _ _ .ok w, built_cfgCommit_complete h _ .ok w⟩

/-- The clamp completes with the warning, and its slot is built all the same (60_exceptions.md R214). -/
theorem buildDelay_of_lt (h : CanBuild c s) (hn : 2 ^ 28 < n) (w : Word) :
    Recorded 3 w s (s.buildDelay c (s.chain c).nfilt.toNat n w) ∧
      Built c { Slot.empty with kind := 0x10001#64, taps := 1#64 } s (s.buildDelay c (s.chain c).nfilt.toNat n w) := by
  rw [State.buildDelay, coerceTaps_of_lt hn]
  exact ⟨recorded_cfgCommit_complete s c _ _ .resourceLimitExceeded w,
    built_cfgCommit_complete h (delaySlot 1 true) .resourceLimitExceeded w⟩

end BuildDelay

/-! ## CFG.DLYT (R140) -/

theorem word0_cfgDlyt (c : Channel) (taps : Word) : (Instr.cfgDlyt c taps).word0 = 0x30000000#32 + chBit c := by
  cases c <;> rfl

theorem encode_cfgDlyt (c : Channel) (taps : Word) : encode (.cfgDlyt c taps) = [0x30000000#32 + chBit c, taps] :=
  congrArg (fun w => [w, taps]) (word0_cfgDlyt c taps)

theorem exec_cfgDlyt (c : Channel) (taps : Word) (s : State) :
    exec (.cfgDlyt c taps) s = .next (s.cfgBegin c (0x30000000#32 + chBit c)
      (fun k => s.buildDelay c k taps.toNat (0x30000000#32 + chBit c))) := by
  rw [← word0_cfgDlyt c taps]
  rfl

theorem exec_cfgDlyt_of_canBuild {c : Channel} {s : State} (h : CanBuild c s) (taps : Word) :
    exec (.cfgDlyt c taps) s =
      .next (s.buildDelay c (s.chain c).nfilt.toNat taps.toNat (0x30000000#32 + chBit c)) := by
  rw [exec_cfgDlyt, cfgBegin_of_canBuild _ _ h]

/-- Settles O38: the command has no validation of its own, and what it builds turns on whether TAPS is clamped. -/
theorem delayFromTapsIsBuilt : Obligations.DelayFromTapsIsBuilt := by
  refine fun c taps s => ⟨encode_cfgDlyt c taps, ?errors, fun h hle => ?unclamped, fun h hlt => ?clamped⟩
  case errors => exact cfgErrors_of_cfgBegin (exec_cfgDlyt c taps s) False.elim
  case unclamped =>
    rw [← delaySlot_of_word]
    exact ⟨_, exec_cfgDlyt_of_canBuild h taps, buildDelay_of_le h hle _⟩
  case clamped => exact ⟨_, exec_cfgDlyt_of_canBuild h taps, buildDelay_of_lt h hlt _⟩

/-! ## CFG.DLYM (R141) -/

theorem word0_cfgDlym (c : Channel) (delayMs sampleRate : Word) :
    (Instr.cfgDlym c delayMs sampleRate).word0 = 0x31000000#32 + chBit c := by
  cases c <;> rfl

theorem encode_cfgDlym (c : Channel) (delayMs sampleRate : Word) :
    encode (.cfgDlym c delayMs sampleRate) = [0x31000000#32 + chBit c, delayMs, sampleRate] :=
  congrArg (fun w => [w, delayMs, sampleRate]) (word0_cfgDlym c delayMs sampleRate)

theorem exec_cfgDlym (c : Channel) (delayMs sampleRate : Word) (s : State) :
    exec (.cfgDlym c delayMs sampleRate) s = .next (s.cfgBegin c (0x31000000#32 + chBit c) (fun k =>
      if sampleRate = 0#32 then s.cfgFail c (0x31000000#32 + chBit c)
      else s.buildDelay c k (tapsOfDelay delayMs sampleRate) (0x31000000#32 + chBit c))) := by
  rw [← word0_cfgDlym c delayMs sampleRate]
  rfl

theorem exec_cfgDlym_of_canBuild {c : Channel} {s : State} {sampleRate : Word} (h : CanBuild c s)
    (hrate : sampleRate ≠ 0#32) (delayMs : Word) :
    exec (.cfgDlym c delayMs sampleRate) s =
      .next (s.buildDelay c (s.chain c).nfilt.toNat (tapsOfDelay delayMs sampleRate) (0x31000000#32 + chBit c)) := by
  rw [exec_cfgDlym, cfgBegin_of_canBuild _ _ h, if_neg hrate]

/-- Settles O39: a SAMPLE_RATE of 0 fails the validation, and else what is built turns on whether the quotient is
clamped. -/
theorem delayFromMillisecondsIsBuilt : Obligations.DelayFromMillisecondsIsBuilt := by
  refine fun c delayMs sampleRate s =>
    ⟨encode_cfgDlym c delayMs sampleRate, ?errors, fun h hrate hle => ?unclamped, fun h hrate hlt => ?clamped⟩
  case errors => exact cfgErrors_of_cfgBegin (exec_cfgDlym c delayMs sampleRate s) fun hzero _ => if_pos hzero
  case unclamped =>
    obtain ⟨hrecorded, hbuilt⟩ := buildDelay_of_le h hle (0x31000000#32 + chBit c)
    exact ⟨_, _, exec_cfgDlym_of_canBuild h hrate delayMs, hrecorded, hbuilt, rfl, delaySlot_taps_toNat hle false⟩
  case clamped => exact ⟨_, exec_cfgDlym_of_canBuild h hrate delayMs, buildDelay_of_lt h hlt _⟩

end Machine
end Sys2Proof
end

section
/-! The gain stage (45_volume_gain.md R150, R151): the step on one sample, and CFG.VOL. The first part is about the command
word of any instruction. -/

namespace Sys2Proof

/-! ## The command word as a sum (30_encoding.md R61) -/

/-- The fields do not overlap, so the command word is their sum, each shifted to its place. -/
theorem mkWord0_eq_add (opc : BitVec 8) (sub pk : BitVec 4) (ch : BitVec 1) :
    mkWord0 opc sub pk ch =
      (opc.setWidth 32 <<< 24) + (sub.setWidth 32 <<< 20) + (pk.setWidth 32 <<< 16) + ch.setWidth 32 := by
  apply BitVec.eq_of_toNat_eq
  have hopc := opc.isLt
  have hsub := sub.isLt
  have hpk := pk.isLt
  have hch := ch.isLt
  simp only [mkWord0_toNat, BitVec.toNat_add, BitVec.toNat_shiftLeft, BitVec.toNat_setWidth, Nat.shiftLeft_eq]
  omega

namespace Machine

/-! ## One step (R151) -/

theorem Slot.IsVolume.kindCode_eq {r : Slot} (h : r.IsVolume) : r.kindCode = 2 := by
  obtain ⟨-, hslot⟩ := h
  rw [hslot]
  rfl

/-- Settles O34: KIND selects the gain step, which is the one product and leaves the filter's state as it found it. -/
theorem volumeStepIsOneProduct : Obligations.VolumeStepIsOneProduct := by
  intro free st x h
  rw [stepFilter, h.kindCode_eq]
  rfl

/-! ## CFG.VOL (R150) -/

/-- Word 0 of CFG.VOL with CURVE in bits 23:20 (45_volume_gain.md R150). -/
def volumeWord (c : Channel) (curve : Curve) : Word :=
  0x32000000#32 + ((curveCode curve).setWidth 32 <<< 20) + chBit c

theorem volumeWord_linear (c : Channel) : volumeWord c .linear = 0x32000000#32 + chBit c := by
  cases c <;> rfl

theorem word0_cfgVol (c : Channel) (curve : Curve) (gain : F32) :
    (Instr.cfgVol c curve gain).word0 = volumeWord c curve := by
  rw [Instr.word0, mkWord0_eq_add, volumeWord, chBit]
  simp

theorem encode_cfgVol (c : Channel) (curve : Curve) (gain : F32) :
    encode (.cfgVol c curve gain) = [volumeWord c curve, gain] :=
  congrArg (fun w => [w, gain]) (word0_cfgVol c curve gain)

theorem exec_cfgVol (c : Channel) (curve : Curve) (gain : F32) (s : State) :
    exec (.cfgVol c curve gain) s = .next (s.cfgBegin c (volumeWord c curve) (fun k =>
      if curve ≠ .linear then s.cfgFail c (volumeWord c curve)
      else (s.cfgCommit c k (volumeSlot gain)).complete .ok (volumeWord c curve))) := by
  rw [← word0_cfgVol c curve gain]
  rfl

theorem exec_cfgVol_linear_of_canBuild {c : Channel} {s : State} (h : CanBuild c s) (gain : F32) :
    exec (.cfgVol c .linear gain) s =
      .next ((s.cfgCommit c (s.chain c).nfilt.toNat (volumeSlot gain)).complete .ok (0x32000000#32 + chBit c)) := by
  rw [exec_cfgVol, cfgBegin_of_canBuild _ _ h, if_neg (not_not_intro rfl), volumeWord_linear]

/-- Settles O40: the command's own validation is that CURVE is Linear, and no GAIN is looked at before the commit stores
it. -/
theorem gainStageIsBuilt : Obligations.GainStageIsBuilt := by
  refine fun c curve gain s => ⟨encode_cfgVol c curve gain, ?errors, fun h hlinear => ?built⟩
  case errors => exact cfgErrors_of_cfgBegin (exec_cfgVol c curve gain s) fun hreserved _ => if_pos hreserved
  case built =>
    obtain rfl := hlinear
    exact ⟨_, exec_cfgVol_linear_of_canBuild h gain, recorded_cfgCommit_complete s c _ _ .ok _,
      built_cfgCommit_complete h (volumeSlot gain) .ok _⟩

end Machine
end Sys2Proof
end

section
/-! The biquad filter (47_biquad_filter.md R191): the step on one sample. The first parts are about any `f64` operation: the
bits of a NaN going in and the free value behind a NaN coming out change no number (40_numerics.md R89). -/

namespace Sys2Proof
namespace Machine

/-! ## The same number up to the bits of a NaN (R89) -/

theorem sameNumber_refl (a : F64) : SameNumber a a := Or.inl rfl

theorem SameNumber.value64_eq {a b : F64} (h : SameNumber a b) : value64 a = value64 b := by
  obtain rfl | ⟨ha, hb⟩ := h
  · rfl
  · rw [(isNaN64_iff a).mp ha, (isNaN64_iff b).mp hb]

/-- One exact result, delivered with any two free values. -/
theorem sameNumber_deliver64 (free free' : BitVec 64) (e : Exact) :
    SameNumber (deliver64 free e) (deliver64 free' e) := by
  by_cases h : e = .nan
  · subst h
    exact Or.inr ⟨isNaN64_quietNaN64 free, isNaN64_quietNaN64 free'⟩
  · exact Or.inl (deliver64_free free free' h)

/-- One exact result, delivered with any two free values. -/
theorem sameSample_deliver32 (free free' : BitVec 64) (e : Exact) :
    SameSample (deliver32 free e) (deliver32 free' e) := by
  by_cases h : e = .nan
  · subst h
    exact Or.inr ⟨isNaN32_quietNaN32 free, isNaN32_quietNaN32 free'⟩
  · exact Or.inl (deliver32_free free free' h)

/-! ## Each operation reads its operands as numbers only -/

section Operations

variable {a a' b b' : F64}

theorem SameNumber.f64Add_cookbook (ha : SameNumber a a') (hb : SameNumber b b') (free : BitVec 64) :
    SameNumber (f64Add free a b) (Cookbook.add a' b') := by
  rw [f64Add, Cookbook.add, f64Add, ha.value64_eq, hb.value64_eq]
  exact sameNumber_deliver64 free _ _

theorem SameNumber.f64Sub_cookbook (ha : SameNumber a a') (hb : SameNumber b b') (free : BitVec 64) :
    SameNumber (f64Sub free a b) (Cookbook.sub a' b') := by
  rw [f64Sub, Cookbook.sub, f64Sub, ha.value64_eq, hb.value64_eq]
  exact sameNumber_deliver64 free _ _

theorem SameNumber.f64Mul_cookbook (ha : SameNumber a a') (hb : SameNumber b b') (free : BitVec 64) :
    SameNumber (f64Mul free a b) (Cookbook.mul a' b') := by
  rw [f64Mul, Cookbook.mul, f64Mul, ha.value64_eq, hb.value64_eq]
  exact sameNumber_deliver64 free _ _

end Operations

theorem sameNumber_f64OfF32 (free free' : BitVec 64) (x : F32) : SameNumber (f64OfF32 free x) (f64OfF32 free' x) :=
  sameNumber_deliver64 free free' _

theorem sameSample_f32OfF64 (free free' : BitVec 64) (y : F64) : SameSample (f32OfF64 free y) (f32OfF64 free' y) :=
  sameSample_deliver32 free free' _

/-! ## One step (R191) -/

/-- TYPE and PKIND lie above bit 1 of KIND, so whichever they are the code that selects the filter is 3
(10_state.md R23). -/
theorem Slot.IsBiquad.kindCode_eq {r : Slot} (h : r.IsBiquad) : r.kindCode = 3 := by
  obtain ⟨⟨type, pkind, hkind, -⟩, -⟩ := h
  rw [Slot.kindCode, hkind, BitVec.extractLsb'_toNat, BitVec.toNat_ofNat, Nat.shiftRight_zero]
  omega

theorem stepFilter_of_isBiquad {st : FilterState} (h : st.1.IsBiquad) (free : Nat → BitVec 64) (x : F32) :
    stepFilter free st x = ((stepBiquad free st.1 x).1, (stepBiquad free st.1 x).2, st.2) := by
  simp only [stepFilter, h.kindCode_eq]

/-- The recurrence with the free values of its operations and without them: the same number after each product, and so
after each sum and difference from left to right. -/
theorem biquadOutput_sameNumber {x x' : F64} (hx : SameNumber x x') (free : Nat → BitVec 64) (r : Slot) :
    SameNumber (biquadOutput free r x)
      (Cookbook.sub (Cookbook.sub (Cookbook.add (Cookbook.add (Cookbook.mul r.n0 x')
        (Cookbook.mul r.n1 r.x1)) (Cookbook.mul r.n2 r.x2)) (Cookbook.mul r.n3 r.y1)) (Cookbook.mul r.n4 r.y2)) := by
  have hterm (i : Nat) (n v : F64) : SameNumber (f64Mul (free i) n v) (Cookbook.mul n v) :=
    (sameNumber_refl n).f64Mul_cookbook (sameNumber_refl v) (free i)
  have hinput : SameNumber (f64Mul (free 1) r.n0 x) (Cookbook.mul r.n0 x') :=
    (sameNumber_refl r.n0).f64Mul_cookbook hx (free 1)
  have hsum := hinput.f64Add_cookbook (hterm 2 r.n1 r.x1) (free 3)
  have hforward := hsum.f64Add_cookbook (hterm 4 r.n2 r.x2) (free 5)
  have hback := hforward.f64Sub_cookbook (hterm 6 r.n3 r.y1) (free 7)
  exact hback.f64Sub_cookbook (hterm 8 r.n4 r.y2) (free 9)

/-- Settles O36: KIND selects the biquad step, whose record is the histories shifted; each number in it is the same
whatever the free values of the operations. -/
theorem biquadStepIsTheRecurrence : Obligations.BiquadStepIsTheRecurrence := by
  intro free st x h
  have hx : SameNumber (f64OfF32 (free 0) x) (f64OfF32 0#64 x) := sameNumber_f64OfF32 _ _ x
  exact ⟨_, _, stepFilter_of_isBiquad h free x, rfl, hx, biquadOutput_sameNumber hx free st.1,
    sameSample_f32OfF64 _ _ _⟩

end Machine
end Sys2Proof
end

section
/-! The system commands NOP, CLRST and SRST (48_system.md R200 to R202). The first two parts are about the
two updates behind them, `clearRecord` and `warmReset`: what each leaves alone, and that the second leaves the table of
10_state.md R32. -/

namespace Sys2Proof
namespace Machine

/-! ## Clearing the record -/

theorem sameButRecord_clearRecord (s : State) : SameButRecord s s.clearRecord := by
  refine ⟨?surroundings, ?lengths, ?buffers, ?chains⟩
  case surroundings => simp [SameSurroundings]
  case lengths => simp [SameLengths]
  case buffers => exact ⟨clearRecord_pcminAt s, clearRecord_ilvAt s, clearRecord_chAt s, clearRecord_pcmoutAt s⟩
  case chains => exact fun c => sameChain_of_eq (clearRecord_chain s c) (clearRecord_delays s c)

/-! ## The reset that keeps the buffer memories (10_state.md R32, 70_reset_and_hazards.md R241) -/

theorem field_empty (f : Nat) : Slot.empty.field f = 0#64 := by
  unfold Slot.field
  split <;> rfl

@[simp] theorem warmReset_ring (s : State) (c : Channel) (k : Nat) : s.warmReset.ring c k = [] := by
  rw [State.ring, warmReset_delays]
  rfl

theorem word_initial : Chain.initial.word = 0#32 := by decide

theorem resetRegisters_warmReset (s : State) : ResetRegisters s.warmReset := by
  refine ⟨rfl, rfl, rfl, rfl, rfl, rfl, rfl, rfl, rfl, word_initial, word_initial,
    fun c => ⟨?phase, ?nfilt, fun k => ⟨fun f => ?slot, ?ring⟩⟩⟩
  case phase => rw [warmReset_chain, Chain.initial]
  case nfilt => rw [warmReset_chain, Chain.initial]
  case slot => rw [warmReset_slot, field_empty]
  case ring => exact warmReset_ring s c k

theorem sameBuffers_warmReset (s : State) : SameBuffers s s.warmReset :=
  ⟨warmReset_pcminAt s, warmReset_ilvAt s, warmReset_chAt s, warmReset_pcmoutAt s⟩

theorem sameSurroundings_warmReset (s : State) : SameSurroundings s s.warmReset :=
  ⟨warmReset_cap s, warmReset_inbox s, warmReset_answers s, warmReset_powerUps s⟩

/-- A completion with code 0 writes RESULT alone of the registers, and with the value it has after a reset. -/
theorem ResetRegisters.complete_ok {s : State} (h : ResetRegisters s) (w : Word) :
    ResetRegisters (s.complete .ok w) := by
  obtain ⟨hid, hstatus, -, herrword, hlenIn, hlenIlv, hlenCh0, hlenCh1, hlenOut, hchain0, hchain1, hchains⟩ := h
  refine ⟨hid, hstatus, rfl, herrword, hlenIn, hlenIlv, hlenCh0, hlenCh1, hlenOut, hchain0, hchain1, ?_⟩
  simpa using hchains

/-! ## NOP (R200) -/

theorem exec_nop (s : State) : exec .nop s = .next (s.complete .ok 0x00000000#32) := rfl

/-- Settles O17: the command is its completion and nothing else. -/
theorem nopDoesNothing : Obligations.NopDoesNothing :=
  ⟨rfl, fun s => ⟨_, exec_nop s, onlyRecorded_complete s .ok _⟩⟩

/-! ## CLRST (R201) -/

theorem exec_clrst (s : State) : exec .clrst s = .next (s.clearRecord.complete .ok 0x01000000#32) := rfl

/-- Settles O18: a completion with code 0 leaves STATUS and ERRWORD as `clearRecord` has left them. -/
theorem clrstClearsTheRecord : Obligations.ClrstClearsTheRecord := by
  refine ⟨rfl, fun s => ⟨_, exec_clrst s, ?status, ?errword, ?result, ?frame⟩⟩
  case status => rw [complete_ok_status, clearRecord_status]
  case errword => rw [complete_ok_errword, clearRecord_errword]
  case result => exact complete_result s.clearRecord .ok _
  case frame => exact sameButRecord_complete.mpr (sameButRecord_clearRecord s)

/-! ## SRST (R202) -/

theorem exec_srst (s : State) : exec .srst s = .next (s.warmReset.complete .ok 0x02000000#32) := rfl

/-- Settles O19: `warmReset` leaves the reset table and the buffer memories, and the completion disturbs neither. -/
theorem srstResetsAllButBuffers : Obligations.SrstResetsAllButBuffers := by
  refine ⟨rfl, fun s => ⟨_, exec_srst s, ?registers, ?buffers, ?surroundings⟩⟩
  case registers => exact (resetRegisters_warmReset s).complete_ok _
  case buffers => exact sameBuffers_complete.mpr (sameBuffers_warmReset s)
  case surroundings => exact sameSurroundings_complete.mpr (sameSurroundings_warmReset s)

end Machine
end Sys2Proof
end

section
/-! Packets that are no instruction (30_encoding.md R66, 60_exceptions.md R215). The first parts are about the
decoder and the opcode map: whatever decodes is covered by a row of the map. -/

namespace Sys2Proof

/-! ## The command word under the mask of a format (30_encoding.md R61, R66) -/

/-- With bits 15:1 zero, a command word is what its other four fields make of it. -/
theorem mkWord0_fields {w : Word} (hzero : zeroOf w = 0#15) : mkWord0 (opcOf w) (subOf w) (pkOf w) (chOf w) = w := by
  apply BitVec.eq_of_toNat_eq
  have hw := w.isLt
  have hbits : (zeroOf w).toNat = 0 := by rw [hzero]; rfl
  simp only [mkWord0_toNat, opcOf, subOf, pkOf, chOf, zeroOf, BitVec.extractLsb'_toNat,
    Nat.shiftRight_eq_div_pow] at hbits ⊢
  omega

/-- A mask works on each field of the command word by itself. -/
theorem mkWord0_and (opc opc' : BitVec 8) (sub sub' pk pk' : BitVec 4) (zero : BitVec 15) (ch ch' : BitVec 1) :
    mkWord0 opc sub pk ch &&& (opc' ++ sub' ++ pk' ++ zero ++ ch') =
      mkWord0 (opc &&& opc') (sub &&& sub') (pk &&& pk') (ch &&& ch') := by
  have hfields : (opc ++ sub ++ pk ++ 0#15 ++ ch) &&& (opc' ++ sub' ++ pk' ++ zero ++ ch') =
      (opc &&& opc') ++ (sub &&& sub') ++ (pk &&& pk') ++ 0#15 ++ (ch &&& ch') := by
    simp only [BitVec.and_append, BitVec.zero_and]
  exact hfields

section Masks

variable (opc : BitVec 8) (sub pk : BitVec 4) (ch : BitVec 1)

/-- The mask of formats C, T and M leaves out CH. -/
theorem mkWord0_and_maskC : mkWord0 opc sub pk ch &&& 0xFFFFFFFE#32 = mkWord0 opc sub pk 0#1 :=
  (mkWord0_and opc (.allOnes 8) sub (.allOnes 4) pk (.allOnes 4) (.allOnes 15) ch 0#1).trans
    (by simp only [BitVec.and_allOnes, BitVec.and_zero])

/-- The mask of format G leaves out CURVE and CH. -/
theorem mkWord0_and_maskG : mkWord0 opc sub pk ch &&& 0xFF0FFFFE#32 = mkWord0 opc 0#4 pk 0#1 :=
  (mkWord0_and opc (.allOnes 8) sub 0#4 pk (.allOnes 4) (.allOnes 15) ch 0#1).trans
    (by simp only [BitVec.and_allOnes, BitVec.and_zero])

/-- The mask of format B leaves out PKIND and CH. -/
theorem mkWord0_and_maskB : mkWord0 opc sub pk ch &&& 0xFFF0FFFE#32 = mkWord0 opc sub 0#4 0#1 :=
  (mkWord0_and opc (.allOnes 8) sub (.allOnes 4) pk 0#4 (.allOnes 15) ch 0#1).trans
    (by simp only [BitVec.and_allOnes, BitVec.and_zero])

end Masks

/-! ## What each format asks of the fields (30_encoding.md R62) -/

section Formats

variable {w : Word} {i j : Instr}

theorem decodeZ_eq_ok (h : decodeZ w i = .ok j) : subOf w = 0#4 ∧ pkOf w = 0#4 ∧ chOf w = 0#1 := by
  unfold decodeZ at h
  split at h
  case isTrue hfields => exact hfields
  case isFalse => cases h

theorem decodeC_eq_ok {f : Channel → Instr} (h : decodeC w f = .ok j) : subOf w = 0#4 ∧ pkOf w = 0#4 := by
  unfold decodeC at h
  split at h
  case isTrue hfields => exact hfields
  case isFalse => cases h

theorem decodeG_eq_ok {gain : F32} (h : decodeG w gain = .ok j) : pkOf w = 0#4 := by
  unfold decodeG at h
  split at h
  case isTrue hpk => exact hpk
  case isFalse => cases h

/-- TYPE is one of the eight that have a row. -/
theorem decodeB_type_lt {ops : BiquadOperands} (h : decodeB w ops = .ok j) : (subOf w).toNat < 8 := by
  unfold decodeB at h
  split at h
  case h_9 => cases h
  all_goals omega

end Formats

/-! ## A packet that decodes has a row -/

/-- The opcode map has a row with this mask for the command words of this OPC and this SUB. -/
abbrev HasRow (mask : Word) (opc : BitVec 8) (sub : BitVec 4) : Prop :=
  ∃ row ∈ opcodeMap, row.mask = mask ∧ row.value = mkWord0 opc sub 0#4 0#1 ∧ row.words = packetWords opc

theorem hasRow_formatZ :
    ∀ opc : BitVec 8, opc.toNat ∈ [0x00, 0x01, 0x02, 0x10, 0x11, 0x12, 0x13] → HasRow 0xFFFFFFFF#32 opc 0#4 := by decide

theorem hasRow_formatC :
    ∀ opc : BitVec 8, opc.toNat ∈ [0x20, 0x21, 0x22, 0x30, 0x31] → HasRow 0xFFFFFFFE#32 opc 0#4 := by decide

theorem hasRow_formatG : HasRow 0xFF0FFFFE#32 0x32#8 0#4 := by decide

theorem hasRow_formatB : ∀ type : BitVec 4, type.toNat < 8 → HasRow 0xFFF0FFFE#32 0x40#8 type := by decide

section Covered

variable {w : Word} {operands : List Word} {j : Instr}

/-- A packet as long as its OPC asks for, whose word 0 is under the mask what the row's value is. -/
theorem HasRow.covers {mask : Word} {sub : BitVec 4} (hrow : HasRow mask (opcOf w) sub)
    (hlen : operands.length + 1 = packetWords (opcOf w)) (hw : w &&& mask = mkWord0 (opcOf w) sub 0#4 0#1) :
    ∃ row ∈ opcodeMap, row.covers w operands = true := by
  obtain ⟨row, hmem, rfl, hvalue, hwords⟩ := hrow
  exact ⟨row, hmem, by simp [OpcodeRow.covers, hw, hvalue, hlen, hwords]⟩

variable (hlen : operands.length + 1 = packetWords (opcOf w)) (hzero : zeroOf w = 0#15)
include hlen hzero

theorem covered_of_decodeZ {i : Instr}
    (hopc : (opcOf w).toNat ∈ [0x00, 0x01, 0x02, 0x10, 0x11, 0x12, 0x13]) (h : decodeZ w i = .ok j) :
    ∃ row ∈ opcodeMap, row.covers w operands = true := by
  obtain ⟨hsub, hpk, hch⟩ := decodeZ_eq_ok h
  refine (hasRow_formatZ _ hopc).covers hlen ?_
  rw [← mkWord0_fields hzero, hsub, hpk, hch, opcOf_mkWord0]
  exact BitVec.and_allOnes

theorem covered_of_decodeC {f : Channel → Instr} (hopc : (opcOf w).toNat ∈ [0x20, 0x21, 0x22, 0x30, 0x31])
    (h : decodeC w f = .ok j) : ∃ row ∈ opcodeMap, row.covers w operands = true := by
  obtain ⟨hsub, hpk⟩ := decodeC_eq_ok h
  refine (hasRow_formatC _ hopc).covers hlen ?_
  rw [← mkWord0_fields hzero, hsub, hpk, opcOf_mkWord0, mkWord0_and_maskC]

theorem covered_of_decodeG {gain : F32} (hopc : opcOf w = 0x32#8) (h : decodeG w gain = .ok j) :
    ∃ row ∈ opcodeMap, row.covers w operands = true := by
  have hrow : HasRow 0xFF0FFFFE#32 (opcOf w) 0#4 := hopc ▸ hasRow_formatG
  refine hrow.covers hlen ?_
  rw [← mkWord0_fields hzero, decodeG_eq_ok h, opcOf_mkWord0, mkWord0_and_maskG]

theorem covered_of_decodeB {ops : BiquadOperands} (hopc : opcOf w = 0x40#8) (h : decodeB w ops = .ok j) :
    ∃ row ∈ opcodeMap, row.covers w operands = true := by
  have hrow : HasRow 0xFFF0FFFE#32 (opcOf w) (subOf w) := hopc ▸ hasRow_formatB _ (decodeB_type_lt h)
  refine hrow.covers hlen ?_
  rw [← mkWord0_fields hzero, opcOf_mkWord0, subOf_mkWord0, mkWord0_and_maskB]

end Covered

/-- The decoder accepts nothing that the opcode map does not list (R66, R67). -/
theorem covered_of_decode_eq_ok {w : Word} {operands : List Word} {i : Instr} (h : decode (w :: operands) = .ok i) :
    ∃ row ∈ opcodeMap, row.covers w operands = true := by
  obtain ⟨hlen, hzero, hrow⟩ := decode_cons_eq_ok_iff.mp h
  unfold decodeByOpcode at hrow
  split at hrow
  case h_1 hopc | h_2 hopc | h_3 hopc | h_4 hopc | h_5 hopc | h_6 hopc | h_7 hopc =>
    exact covered_of_decodeZ hlen hzero (by simp [hopc]) hrow
  case h_8 hopc | h_9 hopc | h_10 hopc =>
    exact covered_of_decodeC hlen hzero (by simp [hopc]) hrow
  case h_11 hopc | h_12 hopc =>
    split at hrow
    case h_1 => exact covered_of_decodeC hlen hzero (by simp [hopc]) hrow
    case h_2 => cases hrow
  case h_13 hopc =>
    split at hrow
    case h_1 => exact covered_of_decodeG hlen hzero (BitVec.eq_of_toNat_eq hopc) hrow
    case h_2 => cases hrow
  case h_14 hopc =>
    split at hrow
    case h_1 => exact covered_of_decodeB hlen hzero (BitVec.eq_of_toNat_eq hopc) hrow
    case h_2 => cases hrow
  case h_15 => cases hrow

namespace Machine

/-! ## IllegalCommand (60_exceptions.md R215) -/

/-- An illegal packet only completes, whatever the decoder's reason is. -/
theorem runPacket_of_error {w : Word} {operands : List Word} {r : Reject} (h : decode (w :: operands) = .error r)
    (s : State) : runPacket w operands s = .next (s.complete .illegalCommand w) := by
  rw [runPacket, h]

/-- Settles O9: a packet without a row does not decode, so the step is a completion with IllegalCommand. -/
theorem illegalPacketOnlyRecords : Obligations.IllegalPacketOnlyRecords := by
  intro s w operands rest hinbox huncovered
  have hstep : step s = runPacket w operands { s with inbox := rest } := step_of_inbox_cons hinbox
  cases hdecode : decode (w :: operands) with
  | ok i =>
    obtain ⟨row, hmem, hcovers⟩ := covered_of_decode_eq_ok hdecode
    exact absurd hcovers (by simp [huncovered row hmem])
  | error r =>
    rw [hstep, runPacket_of_error hdecode]
    exact ⟨_, rfl, onlyRecorded_complete _ .illegalCommand w⟩

end Machine
end Sys2Proof
end

section
/-! The code a command completes with, and what it has changed by then (60_exceptions.md R219, R220). One lemma per
command says both (`Completes`), the CFG commands sharing one; both statements about all instructions follow. -/

namespace Sys2Proof
namespace Machine

/-! ## How a command completes (R220) -/

/-- The record as a command that has not completed yet leaves it. -/
def RecordUntouched (s u : State) : Prop := u.status = s.status ∧ u.errword = s.errword ∧ u.freeTick = s.freeTick

/-- What a command has made of the state `s` when it completes, by its code: with an error nothing, or it has taken the
chain it configures to FAILED (R220, 43_filter_chain.md R125); else its effect, which leaves the record alone. -/
def BeforeCompletion (i : Instr) (s u : State) : ResultCode → Prop
  | .ok | .resourceLimitExceeded => RecordUntouched s u
  | .lengthMismatch | .chainState | .badLength => u = s
  | .invalidParameter | .chainFull => ∃ c, configuredChannel i = some c ∧ u = s.failChain c
  | .illegalCommand => False

/-- The command completes with the code that R219 asks for, and has done by then what goes with it. -/
def Completes (i : Instr) (s : State) : Prop :=
  ∃ code u, exec i s = .next (u.complete code i.word0) ∧ code.number = expectedCode i s ∧ BeforeCompletion i s u code

section BeforeCompletion

variable {i : Instr} {s u : State} {code : ResultCode}

theorem recordUntouched_failChain (s : State) (c : Channel) : RecordUntouched s (s.failChain c) :=
  ⟨failChain_status s c, failChain_errword s c, failChain_freeTick s c⟩

theorem BeforeCompletion.recordUntouched (h : BeforeCompletion i s u code) : RecordUntouched s u := by
  cases code
  case ok | resourceLimitExceeded => exact h
  case lengthMismatch | chainState | badLength =>
    obtain rfl := h
    exact ⟨rfl, rfl, rfl⟩
  case invalidParameter | chainFull =>
    obtain ⟨c, -, rfl⟩ := h
    exact recordUntouched_failChain s c
  case illegalCommand => exact h.elim

theorem BeforeCompletion.sameButRecord (h : BeforeCompletion i s u code)
    (hcode : code.number = 1 ∨ code.number = 5 ∨ code.number = 7) : SameButRecord s u := by
  cases code
  case lengthMismatch | chainState | badLength =>
    obtain rfl := h
    exact sameButRecord_refl u
  all_goals simp [ResultCode.number] at hcode

theorem BeforeCompletion.failsChain (h : BeforeCompletion i s u code) (hcode : code.number = 2 ∨ code.number = 6)
    (w : Word) : ∃ c, configuredChannel i = some c ∧ FailsChain code.number w c s (u.complete code w) := by
  cases code
  case invalidParameter | chainFull =>
    obtain ⟨c, hc, rfl⟩ := h
    exact ⟨c, hc, failsChain_complete s c _ w⟩
  all_goals simp [ResultCode.number] at hcode

end BeforeCompletion

/-! ## Commands that configure no chain -/

/-- Three of the tests of R219 are left where no slot is to be built. -/
theorem expectedCode_of_not_configured {i : Instr} (hc : configuredChannel i = none) (s : State) :
    expectedCode i s =
      if wrongState s i then 5 else if lengthTooLarge s i then 7 else if lengthsDiffer s i then 1 else 0 := by
  have hnone : invalidParameter i = false ∧ tapsClamped i = false := by
    cases i
    case nop | clrst | srst | decode | encode | split | merge | chClear | chAct | apply => exact ⟨rfl, rfl⟩
    all_goals cases hc
  obtain ⟨hvalid, hunclamped⟩ := hnone
  simp [expectedCode, noFreeSlot, hc, hvalid, hunclamped]

/-! ## The system commands and CH.CLEAR -/

section NoError

variable (s : State)

theorem expectedCode_nop : expectedCode .nop s = 0 := rfl

theorem expectedCode_clrst : expectedCode .clrst s = 0 := rfl

theorem expectedCode_srst : expectedCode .srst s = 0 := rfl

theorem expectedCode_chClear (c : Channel) : expectedCode (.chClear c) s = 0 := rfl

theorem completes_nop : Completes .nop s := ⟨.ok, s, exec_nop s, rfl, rfl, rfl, rfl⟩

theorem completes_chClear (c : Channel) : Completes (.chClear c) s :=
  ⟨.ok, s.clearChain c, rfl, rfl, clearChain_status s c, clearChain_errword s c, clearChain_freeTick s c⟩

end NoError

/-! ## DECODE, ENCODE, SPLIT and MERGE: BadLength before LengthMismatch -/

section Buffers

variable (s : State)

theorem expectedCode_decode : expectedCode .decode s = if 2 * s.maxf < s.lenIn.toNat then 7 else 0 := by
  rw [expectedCode_of_not_configured rfl]
  simp [wrongState, lengthTooLarge, lengthsDiffer, configuredChannel]

theorem expectedCode_encode : expectedCode .encode s = if 2 * s.maxf < s.lenIlv.toNat then 7 else 0 := by
  rw [expectedCode_of_not_configured rfl]
  simp [wrongState, lengthTooLarge, lengthsDiffer, configuredChannel]

theorem expectedCode_split : expectedCode .split s = if 2 * s.maxf < s.lenIlv.toNat then 7 else 0 := by
  rw [expectedCode_of_not_configured rfl]
  simp [wrongState, lengthTooLarge, lengthsDiffer, configuredChannel]

theorem expectedCode_merge :
    expectedCode .merge s =
      if s.maxf < s.lenCh0.toNat ∨ s.maxf < s.lenCh1.toNat then 7 else if s.lenCh0 ≠ s.lenCh1 then 1 else 0 := by
  rw [expectedCode_of_not_configured rfl]
  simp [wrongState, lengthTooLarge, lengthsDiffer, configuredChannel]

theorem completes_decode : Completes .decode s := by
  by_cases h : 2 * s.maxf < s.lenIn.toNat
  case pos => exact ⟨.badLength, s, exec_decode_of_lt h, by rw [expectedCode_decode, if_pos h]; rfl, rfl⟩
  case neg =>
    exact ⟨.ok, _, exec_decode_of_le (Nat.le_of_not_lt h), by rw [expectedCode_decode, if_neg h]; rfl, rfl, rfl, rfl⟩

theorem completes_encode : Completes .encode s := by
  by_cases h : 2 * s.maxf < s.lenIlv.toNat
  case pos => exact ⟨.badLength, s, exec_encode_of_lt h, by rw [expectedCode_encode, if_pos h]; rfl, rfl⟩
  case neg =>
    exact ⟨.ok, _, exec_encode_of_le (Nat.le_of_not_lt h), by rw [expectedCode_encode, if_neg h]; rfl, rfl, rfl, rfl⟩

theorem completes_split : Completes .split s := by
  by_cases h : 2 * s.maxf < s.lenIlv.toNat
  case pos => exact ⟨.badLength, s, if_pos h, by rw [expectedCode_split, if_pos h]; rfl, rfl⟩
  case neg => exact ⟨.ok, _, if_neg h, by rw [expectedCode_split, if_neg h]; rfl, rfl, rfl, rfl⟩

theorem completes_merge : Completes .merge s := by
  by_cases hlong : s.maxf < s.lenCh0.toNat ∨ s.maxf < s.lenCh1.toNat
  case pos => exact ⟨.badLength, s, exec_merge_of_tooLong hlong, by rw [expectedCode_merge, if_pos hlong]; rfl, rfl⟩
  case neg =>
    obtain ⟨h0, h1⟩ : s.lenCh0.toNat ≤ s.maxf ∧ s.lenCh1.toNat ≤ s.maxf := by omega
    by_cases hne : s.lenCh0 ≠ s.lenCh1
    case pos =>
      exact ⟨.lengthMismatch, s, exec_merge_of_lengths_ne h0 h1 hne,
        by rw [expectedCode_merge, if_neg hlong, if_pos hne]; rfl, rfl⟩
    case neg =>
      exact ⟨.ok, _, exec_merge_of_lengths_eq h0 (not_not.mp hne).symm,
        by rw [expectedCode_merge, if_neg hlong, if_neg hne]; rfl, rfl, rfl, rfl⟩

end Buffers

/-! ## CH.ACT and APPLY: ChainState before BadLength -/

section Chains

variable (s : State) (c : Channel)

theorem expectedCode_chAct : expectedCode (.chAct c) s = if (s.chain c).phase = .failed then 5 else 0 := by
  rw [expectedCode_of_not_configured rfl]
  simp [wrongState, lengthTooLarge, lengthsDiffer]

theorem expectedCode_apply :
    expectedCode (.apply c) s =
      if (s.chain c).phase ≠ .active then 5 else if s.maxf < (s.lenCh c).toNat then 7 else 0 := by
  rw [expectedCode_of_not_configured rfl]
  simp [wrongState, lengthTooLarge, lengthsDiffer]

theorem completes_chAct : Completes (.chAct c) s := by
  by_cases h : (s.chain c).phase = .failed
  case pos => exact ⟨.chainState, s, if_pos h, by rw [expectedCode_chAct, if_pos h]; rfl, rfl⟩
  case neg =>
    exact ⟨.ok, _, if_neg h, by rw [expectedCode_chAct, if_neg h]; rfl, setChain_status s c _, setChain_errword s c _,
      setChain_freeTick s c _⟩

theorem recordUntouched_applySlot (n k : Nat) : RecordUntouched s (State.applySlot c n s k) := by
  simp [RecordUntouched, State.applySlot]

theorem recordUntouched_foldl_applySlot (n : Nat) (ks : List Nat) :
    RecordUntouched s (ks.foldl (State.applySlot c n) s) := by
  induction ks generalizing s with
  | nil => exact ⟨rfl, rfl, rfl⟩
  | cons k ks ih =>
    obtain ⟨hstatus, herrword, htick⟩ := recordUntouched_applySlot s c n k
    obtain ⟨hstatus', herrword', htick'⟩ := ih (State.applySlot c n s k)
    exact ⟨hstatus'.trans hstatus, herrword'.trans herrword, htick'.trans htick⟩

theorem completes_apply : Completes (.apply c) s := by
  by_cases hphase : (s.chain c).phase ≠ .active
  case pos => exact ⟨.chainState, s, if_pos hphase, by rw [expectedCode_apply, if_pos hphase]; rfl, rfl⟩
  case neg =>
    by_cases hlong : s.maxf < (s.lenCh c).toNat
    case pos =>
      exact ⟨.badLength, s, (if_neg hphase).trans (if_pos hlong),
        by rw [expectedCode_apply, if_neg hphase, if_pos hlong]; rfl, rfl⟩
    case neg =>
      exact ⟨.ok, s.applyChain c, (if_neg hphase).trans (if_neg hlong),
        by rw [expectedCode_apply, if_neg hphase, if_neg hlong]; rfl, recordUntouched_foldl_applySlot s c _ _⟩

end Chains

/-! ## The CFG commands: ChainState, ChainFull, InvalidParameter, and last the warning (43_filter_chain.md R125) -/

section Configuration

variable {i : Instr} {c : Channel} {s : State}

theorem wrongState_of_configured (hc : configuredChannel i = some c) :
    wrongState s i = decide ((s.chain c).phase ≠ .opened) := by
  unfold wrongState
  split
  case h_1 => cases hc
  case h_2 => cases hc
  case h_3 => rw [hc]

/-- No CFG command reads a length register. -/
theorem lengthTests_of_configured (hc : configuredChannel i = some c) :
    lengthTooLarge s i = false ∧ lengthsDiffer s i = false := by
  cases i
  case decode | encode | split | merge | apply => cases hc
  all_goals exact ⟨rfl, rfl⟩

theorem expectedCode_of_configured (hc : configuredChannel i = some c) :
    expectedCode i s =
      if (s.chain c).phase ≠ .opened then 5
      else if (s.chain c).nfilt = s.nslot then 6
      else if invalidParameter i then 2
      else if tapsClamped i then 3
      else 0 := by
  obtain ⟨hlong, hdiffer⟩ := lengthTests_of_configured (s := s) hc
  simp [expectedCode, wrongState_of_configured hc, noFreeSlot, hc, hlong, hdiffer]

/-- The code a CFG command completes with when it has built its slot. -/
def builtCode (i : Instr) : ResultCode := if tapsClamped i then .resourceLimitExceeded else .ok

theorem builtCode_number (i : Instr) : (builtCode i).number = if tapsClamped i then 3 else 0 := by
  unfold builtCode
  split <;> rfl

theorem RecordUntouched.beforeCompletion_builtCode {u : State} (h : RecordUntouched s u) :
    BeforeCompletion i s u (builtCode i) := by
  unfold builtCode
  split <;> exact h

/-- The common procedure raises in the order of R219, and what its own part does turns on `invalidParameter`. -/
theorem completes_of_cfgBegin {build : Nat → State} (hc : configuredChannel i = some c)
    (hexec : exec i s = .next (s.cfgBegin c i.word0 build))
    (hinvalid : invalidParameter i = true → ∀ k, build k = s.cfgFail c i.word0)
    (hvalid : invalidParameter i = false → ∀ k, ∃ r, build k = (s.cfgCommit c k r).complete (builtCode i) i.word0) :
    Completes i s := by
  have hcode := expectedCode_of_configured (s := s) hc
  obtain ⟨hphase, hbegin⟩ | ⟨hopen, hfull, hbegin⟩ | ⟨hopen, hfree, hbegin⟩ := cfgBegin_cases s c i.word0 build
  all_goals rw [hbegin] at hexec
  case inl => exact ⟨.chainState, s, hexec, by rw [hcode, if_pos hphase]; rfl, rfl⟩
  case inr.inl => exact ⟨.chainFull, _, hexec, by simp [hcode, hopen, hfull, ResultCode.number], c, hc, rfl⟩
  case inr.inr =>
    cases hinv : invalidParameter i
    case true =>
      rw [hinvalid hinv] at hexec
      exact ⟨.invalidParameter, _, hexec, by simp [hcode, hopen, hfree, hinv, ResultCode.number], c, hc, rfl⟩
    case false =>
      obtain ⟨r, hbuilt⟩ := hvalid hinv (s.chain c).nfilt.toNat
      have hrecord : RecordUntouched s (s.cfgCommit c (s.chain c).nfilt.toNat r) :=
        ⟨cfgCommit_status s c _ r, cfgCommit_errword s c _ r, cfgCommit_freeTick s c _ r⟩
      rw [hbuilt] at hexec
      exact ⟨builtCode i, _, hexec, by simp [hcode, hopen, hfree, hinv, builtCode_number],
        hrecord.beforeCompletion_builtCode⟩

end Configuration

/-! ## CFG.DLYT, CFG.DLYM and CFG.VOL -/

section DelayAndVolume

variable (s : State) (c : Channel)

/-- Both constructors of a delay line commit a slot, and warn where the tap count is clamped (44_delay_line.md R142). -/
theorem buildDelay_eq_complete {i : Instr} {n : Nat} (hclamp : tapsClamped i = decide (2 ^ 28 < n)) (k : Nat)
    (w : Word) : ∃ r, s.buildDelay c k n w = (s.cfgCommit c k r).complete (builtCode i) w := by
  rw [State.buildDelay, builtCode, hclamp]
  by_cases h : 2 ^ 28 < n
  case pos =>
    rw [coerceTaps_of_lt h, decide_eq_true h]
    exact ⟨_, rfl⟩
  case neg =>
    rw [coerceTaps_of_le (Nat.le_of_not_lt h), decide_eq_false h]
    exact ⟨_, rfl⟩

theorem completes_cfgDlyt (taps : Word) : Completes (.cfgDlyt c taps) s :=
  completes_of_cfgBegin rfl rfl (fun hinv => nomatch hinv) fun _ k => buildDelay_eq_complete s c rfl k _

theorem completes_cfgDlym (delayMs sampleRate : Word) : Completes (.cfgDlym c delayMs sampleRate) s := by
  refine completes_of_cfgBegin rfl rfl (fun hinv k => ?invalid) fun hval k => ?valid
  case invalid => exact if_pos (of_decide_eq_true hinv)
  case valid =>
    rw [if_neg (of_decide_eq_false hval)]
    exact buildDelay_eq_complete s c rfl k _

theorem completes_cfgVol (curve : Curve) (gain : F32) : Completes (.cfgVol c curve gain) s := by
  refine completes_of_cfgBegin rfl rfl (fun hinv k => ?invalid) fun hval k => ?valid
  case invalid => exact if_pos (of_decide_eq_true hinv)
  case valid => exact ⟨volumeSlot gain, if_neg (of_decide_eq_false hval)⟩

end DelayAndVolume

/-! ## The eight CFG.BQ commands -/

section Biquad

variable (type : ResponseType) (c : Channel) (pkind : ParamKind) (ops : BiquadOperands) (s : State)

/-- The eight commands differ in their formulas alone. -/
theorem exec_biquadInstr :
    ∃ formulas, exec (biquadInstr type c pkind ops) s =
      .next (s.configureBiquad type formulas c pkind ops (biquadInstr type c pkind ops).word0) := by
  cases type <;> exact ⟨_, rfl⟩

theorem configuredChannel_biquadInstr : configuredChannel (biquadInstr type c pkind ops) = some c := by
  cases type <;> rfl

theorem builtCode_biquadInstr : builtCode (biquadInstr type c pkind ops) = .ok := by
  cases type <;> rfl

theorem kindNotSlope_eq : kindNotSlope pkind = !decide (pkind = .slope) := by
  cases pkind <;> simp [kindNotSlope]

theorem kindNeitherQNorBandwidth_eq :
    kindNeitherQNorBandwidth pkind = !decide (pkind = .q ∨ pkind = .bandwidth) := by
  cases pkind <;> simp [kindNeitherQNorBandwidth]

/-- The list of R213 fails exactly where one of the six tests of R160 does. -/
theorem invalidParameter_biquadInstr :
    invalidParameter (biquadInstr type c pkind ops) = !biquadOperandsValid type pkind ops := by
  have htests (takes : Bool) : (!(takes && f64IsPositive ops.rate && f64IsPositive ops.f0 && f64IsPositive ops.param)) =
      (!takes || notAllPositive ops) := by
    simp only [notAllPositive, Bool.not_and, Bool.or_assoc]
  rw [biquadOperandsValid, htests]
  cases type
  case lowShelf | highShelf => exact congrArg (· || notAllPositive ops) (kindNotSlope_eq pkind)
  all_goals exact congrArg (· || notAllPositive ops) (kindNeitherQNorBandwidth_eq pkind)

theorem completes_biquadInstr : Completes (biquadInstr type c pkind ops) s := by
  obtain ⟨formulas, hexec⟩ := exec_biquadInstr type c pkind ops s
  refine completes_of_cfgBegin (configuredChannel_biquadInstr type c pkind ops) hexec (fun hinv k => ?invalid)
    fun hval k => ?valid
  case invalid =>
    rw [invalidParameter_biquadInstr] at hinv
    exact if_neg (by simpa using hinv)
  case valid =>
    rw [invalidParameter_biquadInstr] at hval
    rw [builtCode_biquadInstr]
    exact ⟨_, if_pos (by simpa using hval)⟩

end Biquad

/-! ## All commands -/

/-- Every command but the two that write the record themselves. -/
theorem exec_completes {i : Instr} (hclrst : i ≠ .clrst) (hsrst : i ≠ .srst) (s : State) : Completes i s := by
  cases i with
  | nop => exact completes_nop s
  | clrst => exact absurd rfl hclrst
  | srst => exact absurd rfl hsrst
  | decode => exact completes_decode s
  | encode => exact completes_encode s
  | split => exact completes_split s
  | merge => exact completes_merge s
  | chClear c => exact completes_chClear s c
  | chAct c => exact completes_chAct s c
  | apply c => exact completes_apply s c
  | cfgDlyt c taps => exact completes_cfgDlyt s c taps
  | cfgDlym c delayMs sampleRate => exact completes_cfgDlym s c delayMs sampleRate
  | cfgVol c curve gain => exact completes_cfgVol s c curve gain
  | cfgBqLp c pkind ops => exact completes_biquadInstr .lowPass c pkind ops s
  | cfgBqHp c pkind ops => exact completes_biquadInstr .highPass c pkind ops s
  | cfgBqBp c pkind ops => exact completes_biquadInstr .bandPass c pkind ops s
  | cfgBqNotch c pkind ops => exact completes_biquadInstr .notch c pkind ops s
  | cfgBqApk c pkind ops => exact completes_biquadInstr .audioPeak c pkind ops s
  | cfgBqPeq c pkind ops => exact completes_biquadInstr .peakingEq c pkind ops s
  | cfgBqLs c pkind ops => exact completes_biquadInstr .lowShelf c pkind ops s
  | cfgBqHs c pkind ops => exact completes_biquadInstr .highShelf c pkind ops s

/-- The two commands that write the record themselves leave all of it 0 (48_system.md R201, R202). -/
theorem exec_clears_record {i : Instr} (h : i = .clrst ∨ i = .srst) (s : State) :
    expectedCode i s = 0 ∧
      ∃ t, exec i s = .next t ∧ t.result = 0#32 ∧ t.status = 0#32 ∧ t.errword = 0#32 := by
  obtain rfl | rfl := h
  · exact ⟨expectedCode_clrst s, _, exec_clrst s, rfl, rfl, rfl⟩
  · exact ⟨expectedCode_srst s, _, exec_srst s, rfl, rfl, rfl⟩

theorem exec_result (i : Instr) (s : State) :
    ∃ t, exec i s = .next t ∧ t.result = BitVec.ofNat 32 (expectedCode i s) := by
  by_cases h : i = .clrst ∨ i = .srst
  case pos =>
    obtain ⟨hcode, t, hexec, hresult, -⟩ := exec_clears_record h s
    exact ⟨t, hexec, by rw [hresult, hcode]⟩
  case neg =>
    obtain ⟨hclrst, hsrst⟩ := not_or.mp h
    obtain ⟨code, u, hexec, hcode, -⟩ := exec_completes hclrst hsrst s
    exact ⟨_, hexec, by rw [complete_result, ResultCode.word, hcode]⟩

/-! ## The statements -/

/-- Settles O49: a packet that does not decode completes with IllegalCommand, and any other as its instruction does. -/
theorem resultCodeFollowsThePriority : Obligations.ResultCodeFollowsThePriority := by
  intro s w operands rest hinbox
  have hstep : step s = runPacket w operands { s with inbox := rest } := step_of_inbox_cons hinbox
  refine ⟨fun r hdecode => ?illegal, fun i hdecode => ?instruction⟩
  case illegal => exact ⟨_, hstep.trans (runPacket_of_error hdecode _), complete_result _ .illegalCommand w⟩
  case instruction =>
    rw [hstep, runPacket, hdecode]
    exact exec_result i { s with inbox := rest }

/-- Settles O50: CLRST and SRST by themselves, every other command by its code and what goes with it. -/
theorem errorsArePrecise : Obligations.ErrorsArePrecise := by
  refine ⟨fun i s => ?instruction, fun w operands r s hdecode => ?illegal⟩
  case illegal => exact ⟨_, runPacket_of_error hdecode s, onlyRecorded_complete s .illegalCommand w⟩
  case instruction =>
    by_cases h : i = .clrst ∨ i = .srst
    case pos =>
      obtain ⟨hcode, t, hexec, hrecord⟩ := exec_clears_record h s
      refine ⟨t, hexec, fun _ => hrecord, fun hclrst hsrst => absurd h (not_or.mpr ⟨hclrst, hsrst⟩), ?_, ?_⟩ <;> omega
    case neg =>
      obtain ⟨hclrst, hsrst⟩ := not_or.mp h
      obtain ⟨code, u, hexec, hcode, hbefore⟩ := exec_completes hclrst hsrst s
      obtain ⟨hstatus, herrword, htick⟩ := hbefore.recordUntouched
      rw [← hcode]
      exact ⟨_, hexec, fun hclear => absurd hclear h, fun _ _ => recorded_complete code _ hstatus herrword htick,
        fun hkept => sameButRecord_complete.mpr (hbefore.sameButRecord hkept),
        fun hfailed => hbefore.failsChain hfailed i.word0⟩

end Machine
end Sys2Proof
end

section
/-! Encoder and decoder are inverse to each other (30_encoding.md R61 to R68), the opcode map has one row for each packet
that decodes, and the packets written out in the spec. -/

namespace Sys2Proof

/-! ## The fields that stand for a channel, a CURVE and a PKIND (R61) -/

theorem bitOfChannel_channelOfBit (b : BitVec 1) : bitOfChannel (channelOfBit b) = b := by
  revert b
  decide

theorem curveOfBits_curveCode {curve : Curve} (h : curve.wellFormed = true) : curveOfBits (curveCode curve) = curve := by
  cases curve with
  | linear => rfl
  | reserved n =>
    have hn : 1 ≤ n ∧ n ≤ 15 := of_decide_eq_true h
    have htoNat : (BitVec.ofNat 4 n).toNat = n := Nat.mod_eq_of_lt (by omega)
    have hne : BitVec.ofNat 4 n ≠ 0#4 := fun hzero => by
      rw [hzero, BitVec.toNat_ofNat] at htoNat
      omega
    rw [curveCode, curveOfBits, if_neg hne, htoNat]

theorem curveCode_curveOfBits (b : BitVec 4) : curveCode (curveOfBits b) = b := by
  revert b
  decide

theorem wellFormed_curveOfBits (b : BitVec 4) : (curveOfBits b).wellFormed = true := by
  revert b
  decide

theorem paramKindOfBits_paramKindCode {pkind : ParamKind} (h : pkind.wellFormed = true) :
    paramKindOfBits (paramKindCode pkind) = pkind := by
  cases pkind with
  | q => rfl
  | bandwidth => rfl
  | slope => rfl
  | reserved n =>
    obtain ⟨hlow, hhigh⟩ : 3 ≤ n ∧ n ≤ 15 := of_decide_eq_true h
    interval_cases n <;> rfl

theorem paramKindCode_paramKindOfBits (b : BitVec 4) : paramKindCode (paramKindOfBits b) = b := by
  revert b
  decide

theorem wellFormed_paramKindOfBits (b : BitVec 4) : (paramKindOfBits b).wellFormed = true := by
  revert b
  decide

/-! ## The packet of an instruction decodes to it -/

section DecodeOfEncode

open Machine (ResponseType biquadInstr)

variable {opc : BitVec 8} {sub pk : BitVec 4} {ch : BitVec 1} {operands : List Word} {i : Instr}

/-- A word 0 that is put together has bits 15:1 zero, so what is left to check is the length and the row. -/
theorem decode_mkWord0 (hlen : operands.length + 1 = packetWords opc)
    (hrow : decodeByOpcode (mkWord0 opc sub pk ch) operands = .ok i) :
    decode (mkWord0 opc sub pk ch :: operands) = .ok i :=
  decode_cons_eq_ok_iff.mpr ⟨by rw [hlen, opcOf_mkWord0], zeroOf_mkWord0 opc sub pk ch, hrow⟩

variable (c : Channel)

theorem decode_encode_cfgVol {curve : Curve} (h : curve.wellFormed = true) (gain : F32) :
    decode (encode (.cfgVol c curve gain)) = .ok (.cfgVol c curve gain) := by
  refine decode_mkWord0 rfl ?_
  simp [decodeByOpcode, decodeG, Instr.operandWords, curveOfBits_curveCode h]

variable (type : ResponseType) (ops : BiquadOperands)

theorem word0_biquadInstr (pkind : ParamKind) :
    (biquadInstr type c pkind ops).word0 =
      mkWord0 0x40#8 (BitVec.ofNat 4 type.code) (paramKindCode pkind) (bitOfChannel c) := by
  cases type <;> rfl

theorem operandWords_biquadInstr (pkind : ParamKind) :
    (biquadInstr type c pkind ops).operandWords = biquadOperandWords ops := by
  cases type <;> rfl

theorem wellFormed_biquadInstr (pkind : ParamKind) :
    (biquadInstr type c pkind ops).wellFormed = pkind.wellFormed := by
  cases type <;> rfl

theorem decodeB_of_type {w : Word} (h : subOf w = BitVec.ofNat 4 type.code) :
    decodeB w ops = .ok (biquadInstr type (channelOfBit (chOf w)) (paramKindOfBits (pkOf w)) ops) := by
  unfold decodeB
  rw [h]
  cases type <;> rfl

theorem decode_encode_biquadInstr {pkind : ParamKind} (h : pkind.wellFormed = true) :
    decode (encode (biquadInstr type c pkind ops)) = .ok (biquadInstr type c pkind ops) := by
  rw [encode, word0_biquadInstr, operandWords_biquadInstr]
  refine decode_mkWord0 rfl ?_
  rw [biquadOperandWords, decodeByOpcode_biquad (opcOf_mkWord0 _ _ _ _), decodeB_of_type type _ (subOf_mkWord0 _ _ _ _)]
  simp [paramKindOfBits_paramKindCode h]

end DecodeOfEncode

/-- Settles O1: the fields of word 0 select the instruction's row, and each operand's code and halves are read back. -/
theorem decodeOfEncode : Obligations.DecodeOfEncode := by
  intro i hwf
  cases i with
  | nop | clrst | srst | decode | encode | split | merge => rfl
  | chClear c | chAct c | apply c => cases c <;> rfl
  | cfgDlyt c taps => exact decode_mkWord0 rfl (by cases c <;> rfl)
  | cfgDlym c delayMs sampleRate => exact decode_mkWord0 rfl (by cases c <;> rfl)
  | cfgVol c curve gain => exact decode_encode_cfgVol c hwf gain
  | cfgBqLp c pkind ops => exact decode_encode_biquadInstr c .lowPass ops hwf
  | cfgBqHp c pkind ops => exact decode_encode_biquadInstr c .highPass ops hwf
  | cfgBqBp c pkind ops => exact decode_encode_biquadInstr c .bandPass ops hwf
  | cfgBqNotch c pkind ops => exact decode_encode_biquadInstr c .notch ops hwf
  | cfgBqApk c pkind ops => exact decode_encode_biquadInstr c .audioPeak ops hwf
  | cfgBqPeq c pkind ops => exact decode_encode_biquadInstr c .peakingEq ops hwf
  | cfgBqLs c pkind ops => exact decode_encode_biquadInstr c .lowShelf ops hwf
  | cfgBqHs c pkind ops => exact decode_encode_biquadInstr c .highShelf ops hwf

/-! ## A packet that decodes is its instruction's -/

/-- The instruction is one that a packet can carry, and these words are its packet. -/
def IsPacketOf (w : Word) (operands : List Word) (i : Instr) : Prop :=
  i.wellFormed = true ∧ i.word0 = w ∧ i.operandWords = operands

section EncodeOfDecode

variable {w : Word} {operands : List Word} {i j : Instr}

theorem eq_ofNat_of_toNat {k n : Nat} {b : BitVec k} (h : b.toNat = n) : b = BitVec.ofNat k n := by
  rw [← h, BitVec.ofNat_toNat, BitVec.setWidth_eq]

/-- The eight values of TYPE that are not reserved (R61). -/
theorem exists_type_of_lt {sub : BitVec 4} (h : sub.toNat < 8) :
    ∃ type : Machine.ResponseType, sub = BitVec.ofNat 4 type.code := by
  have hlisted : ∀ sub : BitVec 4, sub.toNat < 8 →
      ∃ type ∈ [.lowPass, .highPass, .bandPass, .notch, .audioPeak, .peakingEq, .lowShelf, .highShelf],
        sub = BitVec.ofNat 4 (Machine.ResponseType.code type) := by decide
  obtain ⟨type, -, htype⟩ := hlisted sub h
  exact ⟨type, htype⟩

/-- An OPC with one word leaves no operand words. -/
theorem eq_nil_of_packetWords {opc : BitVec 8} (hlen : operands.length + 1 = packetWords opc)
    (hone : packetWords opc = 1) : operands = [] :=
  List.length_eq_zero_iff.mp (by omega)

variable (hzero : zeroOf w = 0#15)
include hzero

theorem isPacketOf_of_decodeZ {opc : BitVec 8} (hopc : opcOf w = opc) (h : decodeZ w i = .ok j)
    (hwf : i.wellFormed = true) (hword : i.word0 = mkWord0 opc 0#4 0#4 0#1) (hoperands : i.operandWords = operands) :
    IsPacketOf w operands j := by
  obtain ⟨hsub, hpk, hch⟩ := decodeZ_eq_ok h
  rw [decodeZ, if_pos ⟨hsub, hpk, hch⟩] at h
  obtain rfl := Except.ok.inj h
  refine ⟨hwf, ?_, hoperands⟩
  rw [hword, ← mkWord0_fields hzero, hopc, hsub, hpk, hch]

theorem isPacketOf_of_decodeC {f : Channel → Instr} {opc : BitVec 8} (hopc : opcOf w = opc)
    (h : decodeC w f = .ok j) (hwf : ∀ c, (f c).wellFormed = true)
    (hword : ∀ c, (f c).word0 = mkWord0 opc 0#4 0#4 (bitOfChannel c)) (hoperands : ∀ c, (f c).operandWords = operands) :
    IsPacketOf w operands j := by
  obtain ⟨hsub, hpk⟩ := decodeC_eq_ok h
  rw [decodeC, if_pos ⟨hsub, hpk⟩] at h
  obtain rfl := Except.ok.inj h
  refine ⟨hwf _, ?_, hoperands _⟩
  rw [hword, bitOfChannel_channelOfBit]
  rw (occs := .pos [2]) [← mkWord0_fields hzero]
  rw [hopc, hsub, hpk]

theorem isPacketOf_of_decodeG {gain : F32} (hopc : opcOf w = 0x32#8) (h : decodeG w gain = .ok j) :
    IsPacketOf w [gain] j := by
  have hpk := decodeG_eq_ok h
  rw [decodeG, if_pos hpk] at h
  obtain rfl := Except.ok.inj h
  refine ⟨wellFormed_curveOfBits _, ?_, rfl⟩
  rw [Instr.word0, curveCode_curveOfBits, bitOfChannel_channelOfBit, ← hopc, ← hpk, mkWord0_fields hzero]

theorem isPacketOf_of_decodeB {ops : BiquadOperands} (hopc : opcOf w = 0x40#8) (h : decodeB w ops = .ok j) :
    IsPacketOf w (biquadOperandWords ops) j := by
  obtain ⟨type, htype⟩ := exists_type_of_lt (decodeB_type_lt h)
  rw [decodeB_of_type type ops htype] at h
  obtain rfl := Except.ok.inj h
  refine ⟨?_, ?_, operandWords_biquadInstr _ type ops _⟩
  · rw [wellFormed_biquadInstr, wellFormed_paramKindOfBits]
  · rw [word0_biquadInstr, paramKindCode_paramKindOfBits, bitOfChannel_channelOfBit, ← hopc, ← htype,
      mkWord0_fields hzero]

end EncodeOfDecode

theorem isPacketOf_of_decode {w : Word} {operands : List Word} {i : Instr} (h : decode (w :: operands) = .ok i) :
    IsPacketOf w operands i := by
  obtain ⟨hlen, hzero, hrow⟩ := decode_cons_eq_ok_iff.mp h
  unfold decodeByOpcode at hrow
  split at hrow
  case h_1 hopc | h_2 hopc | h_3 hopc | h_4 hopc | h_5 hopc | h_6 hopc | h_7 hopc =>
    have hopc' := eq_ofNat_of_toNat hopc
    obtain rfl := eq_nil_of_packetWords hlen (by rw [hopc']; rfl)
    exact isPacketOf_of_decodeZ hzero hopc' hrow rfl rfl rfl
  case h_8 hopc | h_9 hopc | h_10 hopc =>
    have hopc' := eq_ofNat_of_toNat hopc
    obtain rfl := eq_nil_of_packetWords hlen (by rw [hopc']; rfl)
    exact isPacketOf_of_decodeC hzero hopc' hrow (fun _ => rfl) (fun _ => rfl) (fun _ => rfl)
  case h_11 hopc | h_12 hopc =>
    split at hrow
    case h_1 =>
      exact isPacketOf_of_decodeC hzero (eq_ofNat_of_toNat hopc) hrow (fun _ => rfl) (fun _ => rfl) (fun _ => rfl)
    case h_2 => cases hrow
  case h_13 hopc =>
    split at hrow
    case h_1 => exact isPacketOf_of_decodeG hzero (eq_ofNat_of_toNat hopc) hrow
    case h_2 => cases hrow
  case h_14 hopc =>
    split at hrow
    case h_1 =>
      simpa [biquadOperandWords] using isPacketOf_of_decodeB hzero (eq_ofNat_of_toNat hopc) hrow
    case h_2 => cases hrow
  case h_15 => cases hrow

/-- Settles O2: each format's test of the fields fixes word 0, and the operand words are those that were read. -/
theorem encodeOfDecode : Obligations.EncodeOfDecode := by
  intro ws i h
  cases ws with
  | nil => cases h
  | cons w operands =>
    obtain ⟨hwf, hword, hoperands⟩ := isPacketOf_of_decode h
    exact ⟨hwf, by rw [encode, hword, hoperands]⟩

/-! ## One row for each packet that decodes (R66, R67, R68) -/

/-- No two rows of the map cover the same word 0: the values differ in a bit that both masks look at. -/
theorem rows_disjoint :
    ∀ row ∈ opcodeMap, ∀ row' ∈ opcodeMap, row'.value &&& row.mask = row.value &&& row'.mask → row' = row := by decide

theorem row_unique {w : Word} {operands : List Word} {row row' : OpcodeRow} (hrow : row ∈ opcodeMap)
    (hrow' : row' ∈ opcodeMap) (hcovers : row.covers w operands = true) (hcovers' : row'.covers w operands = true) :
    row' = row := by
  simp only [OpcodeRow.covers, Bool.and_eq_true, decide_eq_true_eq] at hcovers hcovers'
  refine rows_disjoint row hrow row' hrow' ?_
  rw [← hcovers.1, ← hcovers'.1, BitVec.and_assoc, BitVec.and_assoc, BitVec.and_comm row.mask]

section RowOfInstr

theorem covers_of_and {mnemonic : String} {value mask w : Word} {operands : List Word} {words : Nat}
    (hw : w &&& mask = value) (hlen : operands.length + 1 = words) :
    OpcodeRow.covers ⟨mnemonic, value, mask, words⟩ w operands = true := by
  simp [OpcodeRow.covers, hw, hlen]

theorem exists_row_of_cfgVol (c : Channel) (curve : Curve) (gain : F32) :
    ∃ row ∈ opcodeMap, row.mnemonic = (Instr.cfgVol c curve gain).mnemonic ∧
      row.covers (Instr.cfgVol c curve gain).word0 (Instr.cfgVol c curve gain).operandWords = true :=
  ⟨⟨"CFG.VOL", 0x32000000#32, 0xFF0FFFFE#32, 2⟩, by decide, rfl, covers_of_and (mkWord0_and_maskG _ _ _ _) rfl⟩

theorem exists_row_of_biquadInstr (type : Machine.ResponseType) (c : Channel) (pkind : ParamKind)
    (ops : BiquadOperands) :
    ∃ row ∈ opcodeMap, row.mnemonic = (Machine.biquadInstr type c pkind ops).mnemonic ∧
      row.covers (Machine.biquadInstr type c pkind ops).word0 (Machine.biquadInstr type c pkind ops).operandWords =
        true := by
  have hrow : ∃ row ∈ opcodeMap, row.mnemonic = (Machine.biquadInstr type c pkind ops).mnemonic ∧
      row.mask = 0xFFF0FFFE#32 ∧ row.value = mkWord0 0x40#8 (BitVec.ofNat 4 type.code) 0#4 0#1 ∧ row.words = 9 := by
    cases type <;> simp only [Machine.biquadInstr, Instr.mnemonic] <;> decide
  obtain ⟨⟨mnemonic, value, mask, words⟩, hmem, hname, rfl, rfl, rfl⟩ := hrow
  refine ⟨_, hmem, hname, covers_of_and ?_ ?_⟩
  · rw [word0_biquadInstr, mkWord0_and_maskB]
  · rw [operandWords_biquadInstr]
    rfl

/-- Every instruction has a row with its mnemonic, which covers its packet (R66). -/
theorem exists_row_of_instr (i : Instr) :
    ∃ row ∈ opcodeMap, row.mnemonic = i.mnemonic ∧ row.covers i.word0 i.operandWords = true := by
  cases i with
  | nop | clrst | srst | decode | encode | split | merge => decide
  | chClear c | chAct c | apply c => cases c <;> decide
  | cfgDlyt c taps =>
    exact ⟨⟨"CFG.DLYT", 0x30000000#32, 0xFFFFFFFE#32, 2⟩, by decide, rfl, covers_of_and (mkWord0_and_maskC _ _ _ _) rfl⟩
  | cfgDlym c delayMs sampleRate =>
    exact ⟨⟨"CFG.DLYM", 0x31000000#32, 0xFFFFFFFE#32, 3⟩, by decide, rfl, covers_of_and (mkWord0_and_maskC _ _ _ _) rfl⟩
  | cfgVol c curve gain => exact exists_row_of_cfgVol c curve gain
  | cfgBqLp c pkind ops => exact exists_row_of_biquadInstr .lowPass c pkind ops
  | cfgBqHp c pkind ops => exact exists_row_of_biquadInstr .highPass c pkind ops
  | cfgBqBp c pkind ops => exact exists_row_of_biquadInstr .bandPass c pkind ops
  | cfgBqNotch c pkind ops => exact exists_row_of_biquadInstr .notch c pkind ops
  | cfgBqApk c pkind ops => exact exists_row_of_biquadInstr .audioPeak c pkind ops
  | cfgBqPeq c pkind ops => exact exists_row_of_biquadInstr .peakingEq c pkind ops
  | cfgBqLs c pkind ops => exact exists_row_of_biquadInstr .lowShelf c pkind ops
  | cfgBqHs c pkind ops => exact exists_row_of_biquadInstr .highShelf c pkind ops

end RowOfInstr

section InstrOfRow

variable {w : Word} {opc : BitVec 8} {sub pk : BitVec 4}

/-- A field that the mask looks at whole is the field of the value. -/
theorem extractLsb'_of_and {v mask : Word} {start len : Nat} (h : w &&& mask = v)
    (hmask : mask.extractLsb' start len = .allOnes len) : w.extractLsb' start len = v.extractLsb' start len := by
  rw [← h, BitVec.extractLsb'_and, hmask, BitVec.and_allOnes]

theorem eq_mkWord0_of_maskC (h : w &&& 0xFFFFFFFE#32 = mkWord0 opc sub pk 0#1) : w = mkWord0 opc sub pk (chOf w) := by
  have hopc : opcOf w = opc := (extractLsb'_of_and h (by decide)).trans (opcOf_mkWord0 opc sub pk 0#1)
  have hsub : subOf w = sub := (extractLsb'_of_and h (by decide)).trans (subOf_mkWord0 opc sub pk 0#1)
  have hpk : pkOf w = pk := (extractLsb'_of_and h (by decide)).trans (pkOf_mkWord0 opc sub pk 0#1)
  have hzero : zeroOf w = 0#15 := (extractLsb'_of_and h (by decide)).trans (zeroOf_mkWord0 opc sub pk 0#1)
  rw [← hopc, ← hsub, ← hpk, mkWord0_fields hzero]

theorem eq_mkWord0_of_maskG (h : w &&& 0xFF0FFFFE#32 = mkWord0 opc sub pk 0#1) :
    w = mkWord0 opc (subOf w) pk (chOf w) := by
  have hopc : opcOf w = opc := (extractLsb'_of_and h (by decide)).trans (opcOf_mkWord0 opc sub pk 0#1)
  have hpk : pkOf w = pk := (extractLsb'_of_and h (by decide)).trans (pkOf_mkWord0 opc sub pk 0#1)
  have hzero : zeroOf w = 0#15 := (extractLsb'_of_and h (by decide)).trans (zeroOf_mkWord0 opc sub pk 0#1)
  rw [← hopc, ← hpk, mkWord0_fields hzero]

theorem eq_mkWord0_of_maskB (h : w &&& 0xFFF0FFFE#32 = mkWord0 opc sub pk 0#1) :
    w = mkWord0 opc sub (pkOf w) (chOf w) := by
  have hopc : opcOf w = opc := (extractLsb'_of_and h (by decide)).trans (opcOf_mkWord0 opc sub pk 0#1)
  have hsub : subOf w = sub := (extractLsb'_of_and h (by decide)).trans (subOf_mkWord0 opc sub pk 0#1)
  have hzero : zeroOf w = 0#15 := (extractLsb'_of_and h (by decide)).trans (zeroOf_mkWord0 opc sub pk 0#1)
  rw [← hopc, ← hsub, mkWord0_fields hzero]

/-- Every packet that the row covers is some instruction's. -/
def OpcodeRow.Inhabited (row : OpcodeRow) : Prop :=
  ∀ w operands, row.covers w operands = true → ∃ i, IsPacketOf w operands i

theorem OpcodeRow.inhabited_of {row : OpcodeRow}
    (h : ∀ w operands, w &&& row.mask = row.value → operands.length + 1 = row.words → ∃ i, IsPacketOf w operands i) :
    row.Inhabited := by
  intro w operands hcovers
  simp only [OpcodeRow.covers, Bool.and_eq_true, decide_eq_true_eq] at hcovers
  exact h w operands hcovers.1 hcovers.2

variable {mnemonic : String} {value : Word}

theorem inhabited_rowZ {i : Instr} (h : IsPacketOf value [] i) :
    OpcodeRow.Inhabited ⟨mnemonic, value, 0xFFFFFFFF#32, 1⟩ := by
  refine OpcodeRow.inhabited_of fun w operands hw hlen => ⟨i, ?_⟩
  obtain rfl : w = value := BitVec.and_allOnes.symm.trans hw
  obtain rfl : operands = [] := List.length_eq_zero_iff.mp (Nat.succ.inj hlen)
  exact h

theorem inhabited_rowC {words : Nat} (hvalue : value = mkWord0 opc 0#4 0#4 0#1)
    (h : ∀ operands : List Word, operands.length + 1 = words →
      ∃ f : Channel → Instr, ∀ c, IsPacketOf (mkWord0 opc 0#4 0#4 (bitOfChannel c)) operands (f c)) :
    OpcodeRow.Inhabited ⟨mnemonic, value, 0xFFFFFFFE#32, words⟩ := by
  refine OpcodeRow.inhabited_of fun w operands hw hlen => ?_
  obtain ⟨f, hf⟩ := h operands hlen
  refine ⟨f (channelOfBit (chOf w)), ?_⟩
  rw [eq_mkWord0_of_maskC (hw.trans hvalue)]
  simpa [bitOfChannel_channelOfBit] using hf (channelOfBit (chOf w))

theorem inhabited_rowG : OpcodeRow.Inhabited ⟨mnemonic, 0x32000000#32, 0xFF0FFFFE#32, 2⟩ := by
  refine OpcodeRow.inhabited_of fun w operands hw hlen => ?_
  obtain ⟨gain, rfl⟩ := List.length_eq_one_iff.mp (Nat.succ.inj hlen)
  refine ⟨.cfgVol (channelOfBit (chOf w)) (curveOfBits (subOf w)) gain, wellFormed_curveOfBits _, ?_, rfl⟩
  rw [Instr.word0, curveCode_curveOfBits, bitOfChannel_channelOfBit]
  exact (eq_mkWord0_of_maskG (opc := 0x32#8) (sub := 0#4) (pk := 0#4) hw).symm

/-- Eight operand words are the halves of four operands (R64, R65). -/
theorem exists_biquadOperandWords {operands : List Word} (h : operands.length = 8) :
    ∃ ops, biquadOperandWords ops = operands := by
  match operands, h with
  | [r0, r1, f0, f1, g0, g1, p0, p1], _ =>
    exact ⟨⟨operand64 r0 r1, operand64 f0 f1, operand64 g0 g1, operand64 p0 p1⟩, by simp [biquadOperandWords]⟩

theorem inhabited_rowB (type : Machine.ResponseType)
    (hvalue : value = mkWord0 0x40#8 (BitVec.ofNat 4 type.code) 0#4 0#1) :
    OpcodeRow.Inhabited ⟨mnemonic, value, 0xFFF0FFFE#32, 9⟩ := by
  refine OpcodeRow.inhabited_of fun w operands hw hlen => ?_
  obtain ⟨ops, rfl⟩ := exists_biquadOperandWords (Nat.succ.inj hlen)
  refine ⟨Machine.biquadInstr type (channelOfBit (chOf w)) (paramKindOfBits (pkOf w)) ops, ?_, ?_,
    operandWords_biquadInstr _ type ops _⟩
  · rw [wellFormed_biquadInstr, wellFormed_paramKindOfBits]
  · rw [word0_biquadInstr, paramKindCode_paramKindOfBits, bitOfChannel_channelOfBit]
    exact (eq_mkWord0_of_maskB (hw.trans hvalue)).symm

theorem inhabited_of_mem : ∀ row ∈ opcodeMap, row.Inhabited := by
  have hno : ∀ operands : List Word, operands.length + 1 = 1 → operands = [] :=
    fun _ h => List.length_eq_zero_iff.mp (Nat.succ.inj h)
  simp only [opcodeMap, List.forall_mem_cons, List.not_mem_nil, false_implies, implies_true, and_true]
  refine ⟨?nop, ?clrst, ?srst, ?decode, ?encode, ?split, ?merge, ?chClear, ?chAct, ?apply, ?cfgDlyt, ?cfgDlym, ?cfgVol,
    ?lp, ?hp, ?bp, ?notch, ?apk, ?peq, ?ls, ?hs⟩
  case nop => exact inhabited_rowZ (i := .nop) ⟨rfl, rfl, rfl⟩
  case clrst => exact inhabited_rowZ (i := .clrst) ⟨rfl, rfl, rfl⟩
  case srst => exact inhabited_rowZ (i := .srst) ⟨rfl, rfl, rfl⟩
  case decode => exact inhabited_rowZ (i := .decode) ⟨rfl, rfl, rfl⟩
  case encode => exact inhabited_rowZ (i := .encode) ⟨rfl, rfl, rfl⟩
  case split => exact inhabited_rowZ (i := .split) ⟨rfl, rfl, rfl⟩
  case merge => exact inhabited_rowZ (i := .merge) ⟨rfl, rfl, rfl⟩
  case chClear =>
    refine inhabited_rowC (opc := 0x20#8) rfl fun operands h => ?_
    obtain rfl := hno operands h
    exact ⟨.chClear, fun _ => ⟨rfl, rfl, rfl⟩⟩
  case chAct =>
    refine inhabited_rowC (opc := 0x21#8) rfl fun operands h => ?_
    obtain rfl := hno operands h
    exact ⟨.chAct, fun _ => ⟨rfl, rfl, rfl⟩⟩
  case apply =>
    refine inhabited_rowC (opc := 0x22#8) rfl fun operands h => ?_
    obtain rfl := hno operands h
    exact ⟨.apply, fun _ => ⟨rfl, rfl, rfl⟩⟩
  case cfgDlyt =>
    refine inhabited_rowC (opc := 0x30#8) rfl fun operands h => ?_
    obtain ⟨taps, rfl⟩ := List.length_eq_one_iff.mp (Nat.succ.inj h)
    exact ⟨fun c => .cfgDlyt c taps, fun _ => ⟨rfl, rfl, rfl⟩⟩
  case cfgDlym =>
    refine inhabited_rowC (opc := 0x31#8) rfl fun operands h => ?_
    obtain ⟨delayMs, sampleRate, rfl⟩ := List.length_eq_two.mp (Nat.succ.inj h)
    exact ⟨fun c => .cfgDlym c delayMs sampleRate, fun _ => ⟨rfl, rfl, rfl⟩⟩
  case cfgVol => exact inhabited_rowG
  case lp => exact inhabited_rowB .lowPass rfl
  case hp => exact inhabited_rowB .highPass rfl
  case bp => exact inhabited_rowB .bandPass rfl
  case notch => exact inhabited_rowB .notch rfl
  case apk => exact inhabited_rowB .audioPeak rfl
  case peq => exact inhabited_rowB .peakingEq rfl
  case ls => exact inhabited_rowB .lowShelf rfl
  case hs => exact inhabited_rowB .highShelf rfl

end InstrOfRow

/-- Settles O3: a packet that decodes is covered by its instruction's row, no other row covers it, and every covered
packet is some instruction's. -/
theorem packetIsOneRowOrIllegal : Obligations.PacketIsOneRowOrIllegal := by
  intro w operands
  cases hdecode : decode (w :: operands) with
  | ok i =>
    obtain ⟨-, rfl, rfl⟩ := isPacketOf_of_decode hdecode
    obtain ⟨row, hmem, hname, hcovers⟩ := exists_row_of_instr i
    exact Or.inl ⟨row, hmem, hcovers, fun row' hmem' hcovers' => row_unique hmem hmem' hcovers hcovers', i, rfl,
      hname.symm⟩
  | error r =>
    refine Or.inr ⟨fun row hmem => ?_, r, rfl⟩
    by_contra hcovers
    obtain ⟨i, hwf, rfl, rfl⟩ := inhabited_of_mem row hmem w operands (by simpa using hcovers)
    have hok : decode (i.word0 :: i.operandWords) = .ok i := decodeOfEncode i hwf
    rw [hok] at hdecode
    cases hdecode

/-! ## Packets written out in the spec -/

/-- Settles O6: the decoder runs on the written words. -/
theorem sampleWordsDecode : Obligations.SampleWordsDecode := ⟨rfl, rfl, rfl, rfl, rfl, rfl, rfl⟩

/-- Settles O7: the assembler and the encoder run on the line. -/
theorem cycleIsSixPackets : Obligations.CycleIsSixPackets := rfl

namespace Machine

/-- Settles O8: the step serves the head of the host's list, and a packet that decodes is run by `exec`. -/
theorem stepRunsTheDecodedInstruction : Obligations.StepRunsTheDecodedInstruction := by
  intro s w operands rest i hinbox hdecode
  obtain ⟨hwf, -, -⟩ := isPacketOf_of_decode hdecode
  have hstep : step s = runPacket w operands { s with inbox := rest } := step_of_inbox_cons hinbox
  exact ⟨hwf, by rw [hstep, runPacket, hdecode]⟩

end Machine
end Sys2Proof
end

section
/-! A delay line is a first-in-first-out sequence (44_delay_line.md R144). -/

namespace Sys2Proof
namespace Machine

/-! ## What a step does to the queue -/

section Queue

variable {r : Slot} {ring : Cells 32}

@[simp] theorem delayQueue_length (st : FilterState) : (delayQueue st).length = st.1.taps.toNat := by
  simp [delayQueue]

/-- The oldest sample of the queue is the element at HEAD, and the samples after it follow HEAD round the ring. -/
theorem delayQueue_getElem? (st : FilterState) (j : Nat) :
    (delayQueue st)[j]? =
      if j < st.1.taps.toNat then some (readOr 0#32 st.2 ((st.1.head.toNat + j) % st.1.taps.toNat)) else none := by
  unfold delayQueue
  by_cases h : j < st.1.taps.toNat <;> simp [h]

theorem isDelay_stepDelay (h : r.IsDelay) (x : F32) : (stepDelay r ring x).2.1.IsDelay := by
  have hhead := stepDelay_head_toNat h ring x
  obtain ⟨hkind, hpos, hle, -, hzero⟩ := h
  refine ⟨hkind, hpos, hle, ?_, ?_⟩
  · rw [hhead]
    exact Nat.mod_lt _ hpos
  · rw [stepDelay, hzero]

/-- The sample that a step puts out is the first one of the queue. -/
theorem stepDelay_output (h : r.IsDelay) (x : F32) : (delayQueue (r, ring))[0]? = some (stepDelay r ring x).1 := by
  obtain ⟨-, hpos, -, hhead, -⟩ := h
  have hnonempty : 0 < r.taps.toNat := hpos
  rw [delayQueue_getElem?, if_pos hnonempty]
  simp [stepDelay, Nat.mod_eq_of_lt hhead]

/-- A step drops the first sample of the queue and appends the one that came in: HEAD has advanced by one, and the place
that it has left is the last one the queue comes to. -/
theorem delayQueue_stepDelay (h : r.IsDelay) (x : F32) :
    delayQueue (stepDelay r ring x).2 = (delayQueue (r, ring)).drop 1 ++ [x] := by
  have hhead' := stepDelay_head_toNat h ring x
  obtain ⟨-, hpos, -, hhead, -⟩ := h
  have htaps : (stepDelay r ring x).2.1.taps = r.taps := rfl
  refine List.ext_getElem? fun j => ?_
  rw [delayQueue_getElem?, hhead', htaps, Nat.mod_add_mod, readOr_stepDelay_ring]
  simp only [List.getElem?_append, List.length_drop, delayQueue_length, List.getElem?_drop, delayQueue_getElem?]
  obtain hlt | rfl | hgt : j < r.taps.toNat - 1 ∨ j = r.taps.toNat - 1 ∨ r.taps.toNat ≤ j := by omega
  case inl =>
    have hne : (r.head.toNat + 1 + j) % r.taps.toNat ≠ r.head.toNat := by
      intro heq
      have hdiv := Nat.div_add_mod (r.head.toNat + 1 + j) r.taps.toNat
      rw [heq] at hdiv
      have hmul : r.taps.toNat * ((r.head.toNat + 1 + j) / r.taps.toNat) = 1 + j := by omega
      have hdvd : r.taps.toNat ∣ 1 + j := ⟨_, hmul.symm⟩
      have := Nat.le_of_dvd (by omega) hdvd
      omega
    rw [if_pos (by omega), if_neg hne, if_pos hlt, if_pos (by omega), Nat.add_assoc]
  case inr.inl =>
    have heq : (r.head.toNat + 1 + (r.taps.toNat - 1)) % r.taps.toNat = r.head.toNat := by
      have hsum : r.head.toNat + 1 + (r.taps.toNat - 1) = r.head.toNat + r.taps.toNat := by omega
      rw [hsum, Nat.add_mod_right, Nat.mod_eq_of_lt hhead]
    rw [if_pos (by omega), if_pos heq, if_neg (by omega)]
    simp
  case inr.inr =>
    have hend : ([x] : List F32)[j - (r.taps.toNat - 1)]? = none := List.getElem?_eq_none (by simp; omega)
    rw [if_neg (by omega), if_neg (by omega), hend]

end Queue

/-! ## Over a buffer -/

/-- Over any buffer the queue and the buffer are one sequence, cut after as many samples as came in. -/
theorem runFilter_isDelay (free : Nat → Nat → BitVec 64) (xs : List F32) :
    ∀ (i : Nat) (st : FilterState), st.1.IsDelay →
      (runFilter free i st xs).1 = (delayQueue st ++ xs).take xs.length ∧
      delayQueue (runFilter free i st xs).2 = (delayQueue st ++ xs).drop xs.length ∧
      (runFilter free i st xs).2.1.IsDelay := by
  induction xs with
  | nil => exact fun i st h => ⟨rfl, by simp [runFilter], h⟩
  | cons x xs ih =>
    rintro i ⟨r, ring⟩ h
    obtain ⟨hout, hqueue, hdelay⟩ := ih (i + 1) (stepDelay r ring x).2 (isDelay_stepDelay h x)
    have hcons : delayQueue (r, ring) = (stepDelay r ring x).1 :: (delayQueue (r, ring)).drop 1 := by
      have hfirst := stepDelay_output (ring := ring) h x
      cases hq : delayQueue (r, ring) with
      | nil => simp [hq] at hfirst
      | cons y ys => simpa [hq] using hfirst
    rw [delayQueue_stepDelay h x] at hout hqueue
    simp only [runFilter, stepFilter_of_isDelay h]
    refine ⟨?output, ?queue, hdelay⟩
    case output =>
      rw [hout, hcons]
      simp
    case queue =>
      rw [hqueue, hcons]
      simp

/-! ## A fresh delay line -/

theorem isDelay_delaySlot {taps : Nat} (hpos : 1 ≤ taps) (hle : taps ≤ 2 ^ 28) : (delaySlot taps false).IsDelay := by
  have htaps : (delaySlot taps false).taps.toNat = taps := by
    rw [delaySlot, BitVec.toNat_ofNat, Nat.mod_eq_of_lt (by omega)]
  exact ⟨Or.inl rfl, by omega, by omega, by rw [htaps]; exact hpos, rfl⟩

/-- A fresh delay line holds `taps` zeros: no element of its delay memory is listed (10_state.md R29). -/
theorem delayQueue_fresh {taps : Nat} (hle : taps ≤ 2 ^ 28) :
    delayQueue (delaySlot taps false, []) = List.replicate taps 0#32 := by
  have htaps : (delaySlot taps false).taps.toNat = taps := by
    rw [delaySlot, BitVec.toNat_ofNat, Nat.mod_eq_of_lt (by omega)]
  rw [delayQueue, htaps]
  simp [List.map_const']

/-- Settles O33: a step takes the queue's first sample and appends the new one, by induction over the buffer; a fresh
line's queue is all zeros. -/
theorem delayLineIsAQueue : Obligations.DelayLineIsAQueue := by
  refine ⟨fun free i st xs h => runFilter_isDelay free xs i st h, fun free i taps xs hpos hle => ?fresh⟩
  case fresh =>
    have hdelay := isDelay_delaySlot hpos hle
    refine ⟨hdelay, fun j hj => ?_⟩
    obtain ⟨hout, -, -⟩ := runFilter_isDelay free xs i (delaySlot taps false, []) hdelay
    rw [hout, delayQueue_fresh hle, List.getElem?_take_of_lt hj, List.getElem?_append, List.length_replicate]
    split
    case isTrue hlt => simp [hlt]
    case isFalse => rfl

end Machine
end Sys2Proof
end

section
/-! SPLIT (42_channel_interleaver.md R110), and that SPLIT and MERGE undo each other on equal lengths (R112). -/

namespace Sys2Proof
namespace Machine

/-! ## SPLIT -/

section Split

variable (s : State)

/-- CH0, CH1 and their lengths after a SPLIT. -/
def State.splitFrames : State :=
  { s with
    mem := { s.mem with
      ch0 := storeFrom s.mem.ch0 0 (elements (fun j => s.ilvAt (2 * j)) ((s.lenIlv.toNat + 1) / 2))
      ch1 := storeFrom s.mem.ch1 0 (elements (fun j => s.ilvAt (2 * j + 1)) (s.lenIlv.toNat / 2)) }
    lenCh0 := BitVec.ofNat 32 ((s.lenIlv.toNat + 1) / 2)
    lenCh1 := BitVec.ofNat 32 (s.lenIlv.toNat / 2) }

theorem splitFrames_lenCh0 : s.splitFrames.lenCh0.toNat = (s.lenIlv.toNat + 1) / 2 := by
  have hlen := s.lenIlv.isLt
  exact Nat.mod_eq_of_lt (by omega)

theorem splitFrames_lenCh1 : s.splitFrames.lenCh1.toNat = s.lenIlv.toNat / 2 := by
  have hlen := s.lenIlv.isLt
  exact Nat.mod_eq_of_lt (by omega)

/-- ceil(L / 2) elements of CH0 are written, which are those whose double is an index below L. -/
theorem splitFrames_chAt_ch0 (j : Nat) :
    s.splitFrames.chAt .ch0 j = if 2 * j < s.lenIlv.toNat then s.ilvAt (2 * j) else s.chAt .ch0 j := by
  have hrange : j < (s.lenIlv.toNat + 1) / 2 ↔ 2 * j < s.lenIlv.toNat := by omega
  have hread := getD_lookupCell_storeFrom_elements s.mem.ch0 (fun j => s.ilvAt (2 * j)) ((s.lenIlv.toNat + 1) / 2) j
    (Config.powerUpWord s.powerUps .ch0 j)
  simp only [hrange] at hread
  exact hread

theorem splitFrames_chAt_ch1 (j : Nat) :
    s.splitFrames.chAt .ch1 j = if 2 * j + 1 < s.lenIlv.toNat then s.ilvAt (2 * j + 1) else s.chAt .ch1 j := by
  have hrange : j < s.lenIlv.toNat / 2 ↔ 2 * j + 1 < s.lenIlv.toNat := by omega
  have hread := getD_lookupCell_storeFrom_elements s.mem.ch1 (fun j => s.ilvAt (2 * j + 1)) (s.lenIlv.toNat / 2) j
    (Config.powerUpWord s.powerUps .ch1 j)
  simp only [hrange] at hread
  exact hread

theorem splitFrames_frame :
    SameSurroundings s s.splitFrames ∧ SamePcmin s s.splitFrames ∧ SameIlv s s.splitFrames ∧
      SamePcmout s s.splitFrames ∧ ∀ c, SameChain c s s.splitFrames :=
  ⟨⟨rfl, rfl, rfl, rfl⟩, fun _ => rfl, fun _ => rfl, fun _ => rfl,
    fun _ => ⟨rfl, rfl, fun _ => rfl, fun _ => rfl⟩⟩

variable {s}

theorem exec_split_of_le (h : s.lenIlv.toNat ≤ 2 * s.maxf) :
    exec .split s = .next (s.splitFrames.complete .ok Instr.split.word0) :=
  if_neg (Nat.not_lt.mpr h)

theorem exec_split_of_lt (h : 2 * s.maxf < s.lenIlv.toNat) :
    exec .split s = .next (s.complete .badLength Instr.split.word0) :=
  if_pos h

end Split

/-- Settles O22: the two loops fill CH0 and CH1 with the even and the odd elements, and where LEN_ILV is too long the
command only completes. -/
theorem splitDeinterleaves : Obligations.SplitDeinterleaves := by
  refine ⟨rfl, fun s => ⟨fun h => ?fits, fun h => ?tooLong⟩⟩
  case fits =>
    refine ⟨_, exec_split_of_le h, recorded_complete .ok _ rfl rfl rfl, fun j => ?_, fun j => ?_, ?_, ?_, rfl, rfl, rfl, ?_⟩
    · rw [complete_chAt, splitFrames_chAt_ch0]
    · rw [complete_chAt, splitFrames_chAt_ch1]
    · rw [complete_lenCh0, splitFrames_lenCh0]
    · rw [complete_lenCh1, splitFrames_lenCh1]
    · simpa using splitFrames_frame s
  case tooLong => exact ⟨_, exec_split_of_lt h, onlyRecorded_complete s .badLength _⟩

/-! ## SPLIT and MERGE one after the other (R112) -/

section Inverse

variable {s : State}

/-- After SPLIT of an even length MERGE puts every element back where it came from. -/
theorem merge_after_split (h : s.lenIlv.toNat ≤ 2 * s.maxf) (heven : s.lenIlv.toNat % 2 = 0) (w : Word) :
    ∃ u, exec .merge (s.splitFrames.complete .ok w) = .next u ∧ u.result = 0#32 ∧ u.lenIlv = s.lenIlv ∧ SameIlv s u := by
  have hlen0 := splitFrames_lenCh0 s
  have hlen1 := splitFrames_lenCh1 s
  have hfits : (s.splitFrames.complete .ok w).lenCh0.toNat ≤ (s.splitFrames.complete .ok w).maxf := by
    rw [complete_lenCh0, hlen0, complete_maxf]
    exact (by omega : (s.lenIlv.toNat + 1) / 2 ≤ s.maxf)
  have hsame : (s.splitFrames.complete .ok w).lenCh1 = (s.splitFrames.complete .ok w).lenCh0 := by
    rw [complete_lenCh1, complete_lenCh0]
    exact BitVec.eq_of_toNat_eq (by omega)
  have hlength : (s.splitFrames.complete .ok w).lenCh0.toNat = s.lenIlv.toNat / 2 := by
    rw [complete_lenCh0, hlen0]
    omega
  refine ⟨_, exec_merge_of_lengths_eq hfits hsame, complete_result _ .ok _, ?length, fun i => ?element⟩
  case length =>
    rw [complete_lenIlv]
    apply BitVec.eq_of_toNat_eq
    rw [mergeFrames_lenIlv hfits, hlength]
    omega
  case element =>
    have hilv (i : Nat) : (s.splitFrames.complete .ok w).ilvAt i = s.ilvAt i := by
      rw [complete_ilvAt]
      rfl
    rw [complete_ilvAt]
    obtain ⟨j, rfl | rfl⟩ := i.even_or_odd'
    · rw [mergeFrames_ilvAt_even hfits, hlength, complete_chAt, splitFrames_chAt_ch0, hilv]
      split
      case isTrue hlt => rw [if_pos (by omega)]
      case isFalse => rfl
    · rw [mergeFrames_ilvAt_odd hfits, hlength, complete_chAt, splitFrames_chAt_ch1, hilv]
      split
      case isTrue hlt => rw [if_pos (by omega)]
      case isFalse => rfl

/-- SPLIT of an odd length leaves CH0 one element longer, and MERGE ends with LengthMismatch. -/
theorem merge_after_odd_split (h : s.lenIlv.toNat ≤ 2 * s.maxf) (hodd : s.lenIlv.toNat % 2 = 1) (w : Word) :
    ∃ u, exec .merge (s.splitFrames.complete .ok w) = .next u ∧ u.result = 1#32 ∧ u.lenIlv = s.lenIlv ∧ SameIlv s u := by
  have hlen0 := splitFrames_lenCh0 s
  have hlen1 := splitFrames_lenCh1 s
  have h0 : (s.splitFrames.complete .ok w).lenCh0.toNat ≤ (s.splitFrames.complete .ok w).maxf := by
    rw [complete_lenCh0, hlen0, complete_maxf]
    exact (by omega : (s.lenIlv.toNat + 1) / 2 ≤ s.maxf)
  have h1 : (s.splitFrames.complete .ok w).lenCh1.toNat ≤ (s.splitFrames.complete .ok w).maxf := by
    rw [complete_lenCh1, hlen1, complete_maxf]
    exact (by omega : s.lenIlv.toNat / 2 ≤ s.maxf)
  have hne : (s.splitFrames.complete .ok w).lenCh0 ≠ (s.splitFrames.complete .ok w).lenCh1 := by
    rw [complete_lenCh0, complete_lenCh1]
    intro heq
    have := congrArg BitVec.toNat heq
    omega
  refine ⟨_, exec_merge_of_lengths_ne h0 h1 hne, complete_result _ .lengthMismatch _, ?length, fun i => ?element⟩
  case length => simp [State.splitFrames]
  case element =>
    simp only [complete_ilvAt]
    rfl

/-- After MERGE of equal lengths SPLIT puts every element back where it came from. -/
theorem split_after_merge (h : s.lenCh0.toNat ≤ s.maxf) (heq : s.lenCh1 = s.lenCh0) (w : Word) :
    ∃ u, exec .split (s.mergeFrames.complete .ok w) = .next u ∧ u.result = 0#32 ∧
      ∀ c, u.lenCh c = s.lenCh c ∧ SameCh c s u := by
  have hlength : (s.mergeFrames.complete .ok w).lenIlv.toNat = 2 * s.lenCh0.toNat := by
    rw [complete_lenIlv, mergeFrames_lenIlv h]
  have hfits : (s.mergeFrames.complete .ok w).lenIlv.toNat ≤ 2 * (s.mergeFrames.complete .ok w).maxf := by
    rw [hlength, complete_maxf]
    exact (by omega : 2 * s.lenCh0.toNat ≤ 2 * s.maxf)
  have hch (c : Channel) (j : Nat) : (s.mergeFrames.complete .ok w).chAt c j = s.chAt c j := by
    rw [complete_chAt]
    rfl
  refine ⟨_, exec_split_of_le hfits, complete_result _ .ok _, fun c => ⟨?length, fun j => ?element⟩⟩
  case length =>
    have hceil : (2 * s.lenCh0.toNat + 1) / 2 = s.lenCh0.toNat := by omega
    have hfloor : 2 * s.lenCh0.toNat / 2 = s.lenCh1.toNat := by
      rw [heq]
      omega
    rw [complete_lenCh]
    cases c
    · exact BitVec.eq_of_toNat_eq ((splitFrames_lenCh0 _).trans (by rw [hlength]; exact hceil))
    · exact BitVec.eq_of_toNat_eq ((splitFrames_lenCh1 _).trans (by rw [hlength]; exact hfloor))
  case element =>
    rw [complete_chAt]
    cases c
    · rw [splitFrames_chAt_ch0, hlength, complete_ilvAt, mergeFrames_ilvAt_even h, hch]
      split
      case isTrue hlt => rw [if_pos (by omega)]
      case isFalse => rfl
    · rw [splitFrames_chAt_ch1, hlength, complete_ilvAt, mergeFrames_ilvAt_odd h, hch]
      split
      case isTrue hlt => rw [if_pos (by omega)]
      case isFalse => rfl

end Inverse

/-- Settles O24: each direction element by element, by the parity of the index in ILV. -/
theorem splitAndMergeAreInverse : Obligations.SplitAndMergeAreInverse := by
  refine fun s => ⟨fun h heven => ?even, fun h hodd => ?odd, fun h heq => ?merged⟩
  case even =>
    obtain ⟨u, hmerge, hu⟩ := merge_after_split h heven Instr.split.word0
    exact ⟨_, u, exec_split_of_le h, hmerge, hu⟩
  case odd =>
    obtain ⟨u, hmerge, hu⟩ := merge_after_odd_split h hodd Instr.split.word0
    exact ⟨_, u, exec_split_of_le h, hmerge, hu⟩
  case merged =>
    obtain ⟨u, hsplit, hu⟩ := split_after_merge h heq Instr.merge.word0
    exact ⟨_, u, exec_merge_of_lengths_eq h heq, hsplit, hu⟩

end Machine
end Sys2Proof
end

section
/-! APPLY (43_filter_chain.md R124, R126): one pass, all passes as `slotMajor`, and the same samples and filters from
`sampleMajor`. -/

namespace Sys2Proof
namespace Machine

/-! ## One pass over the buffer (R124) -/

section ApplySlot

variable (c : Channel) (n : Nat) (s : State) (k : Nat)

/-- The filter of a slot with its delay memory. -/
def filterAt (j : Nat) : FilterState := (s.slot c j, s.ring c j)

/-- What the filter of slot `k` makes of the first `n` samples of the channel's buffer. -/
def slotPass : List F32 × FilterState :=
  runFilter (Config.nanBits s.freeTick k) 0 (filterAt c s k) (elements (s.chAt c) n)

theorem applySlot_eq :
    State.applySlot c n s k =
      ((s.setChCells c (storeFrom (s.chCells c) 0 (slotPass c n s k).1)).setSlot c k (slotPass c n s k).2.1).setRing c k
        (slotPass c n s k).2.2 :=
  rfl

@[simp] theorem applySlot_freeTick : (State.applySlot c n s k).freeTick = s.freeTick := by
  simp [applySlot_eq]

theorem applySlot_slot (c' : Channel) (j : Nat) :
    (State.applySlot c n s k).slot c' j = if c' = c ∧ j = k then (slotPass c n s k).2.1 else s.slot c' j := by
  simp [applySlot_eq, setSlot_slot]

theorem applySlot_ring (c' : Channel) (j : Nat) :
    (State.applySlot c n s k).ring c' j = if c' = c ∧ j = k then (slotPass c n s k).2.2 else s.ring c' j := by
  simp [applySlot_eq, setRing_ring]

theorem applySlot_filterAt_self : filterAt c (State.applySlot c n s k) k = (slotPass c n s k).2 := by
  simp [filterAt, applySlot_slot, applySlot_ring]

theorem applySlot_filterAt_of_ne {j : Nat} (h : j ≠ k) : filterAt c (State.applySlot c n s k) j = filterAt c s j := by
  simp [filterAt, applySlot_slot, applySlot_ring, h]

theorem applySlot_chAt_self (i : Nat) :
    (State.applySlot c n s k).chAt c i = if i < n then ((slotPass c n s k).1[i]?).getD 0#32 else s.chAt c i := by
  have hlen : (slotPass c n s k).1.length = n := by simp [slotPass]
  have hcells : (State.applySlot c n s k).chCells c = storeFrom (s.chCells c) 0 (slotPass c n s k).1 := by
    simp [applySlot_eq]
  have hups : (State.applySlot c n s k).powerUps = s.powerUps := by simp [applySlot_eq]
  rw [State.chAt, hcells, hups, lookupCell_storeFrom, hlen]
  by_cases h : i < n
  · have hin : i < (slotPass c n s k).1.length := by omega
    simp [h, hin]
  · simp [h, State.chAt]

theorem applySlot_samples : elements ((State.applySlot c n s k).chAt c) n = (slotPass c n s k).1 := by
  refine List.ext_getElem? fun i => ?_
  rw [elements_getElem?, applySlot_chAt_self]
  by_cases h : i < n
  · have hin : i < (slotPass c n s k).1.length := by simpa [slotPass] using h
    simp [h, hin]
  · have hout : (slotPass c n s k).1.length ≤ i := by simpa [slotPass] using h
    simp [h, hout]

/-- What APPLY on channel `c` leaves alone: everything but the record, the channel's buffer, slots and delay memories. -/
def SameOutsideFilters (s t : State) : Prop :=
  SameSurroundings s t ∧ SameLengths s t ∧ SamePcmin s t ∧ SameIlv s t ∧ SamePcmout s t ∧
  SameCh c.other s t ∧ SameChain c.other s t ∧
  (t.chain c).phase = (s.chain c).phase ∧ (t.chain c).nfilt = (s.chain c).nfilt

theorem sameOutsideFilters_applySlot : SameOutsideFilters c s (State.applySlot c n s k) := by
  refine ⟨?surroundings, ?lengths, ?pcmin, ?ilv, ?pcmout, ?ch, ?chain, ?phase, ?nfilt⟩
  case surroundings => simp [SameSurroundings, applySlot_eq]
  case lengths => simp [SameLengths, applySlot_eq]
  case pcmin => simp [SamePcmin, applySlot_eq]
  case ilv => simp [SameIlv, applySlot_eq]
  case pcmout => simp [SamePcmout, applySlot_eq]
  case ch => exact fun i => by simp [applySlot_eq, setChCells_chAt_other]
  case chain => exact sameChain_of_eq (by simp [applySlot_eq]) (by simp [applySlot_eq])
  case phase => simp [applySlot_eq]
  case nfilt => simp [applySlot_eq]

end ApplySlot

/-! ## Frames one after the other -/

section Transitive

variable {c : Channel} {s t u : State}

theorem SameSurroundings.trans (h : SameSurroundings s t) (h' : SameSurroundings t u) : SameSurroundings s u := by
  obtain ⟨hcap, hinbox, hanswers, hups⟩ := h
  obtain ⟨hcap', hinbox', hanswers', hups'⟩ := h'
  exact ⟨hcap'.trans hcap, hinbox'.trans hinbox, hanswers'.trans hanswers, hups'.trans hups⟩

theorem SameLengths.trans (h : SameLengths s t) (h' : SameLengths t u) : SameLengths s u := by
  obtain ⟨hin, hilv, hch, hout⟩ := h
  obtain ⟨hin', hilv', hch', hout'⟩ := h'
  exact ⟨hin'.trans hin, hilv'.trans hilv, fun c => (hch' c).trans (hch c), hout'.trans hout⟩

theorem SameChain.trans (h : SameChain c s t) (h' : SameChain c t u) : SameChain c s u := by
  obtain ⟨hphase, hnfilt, hslot, hring⟩ := h
  obtain ⟨hphase', hnfilt', hslot', hring'⟩ := h'
  exact ⟨hphase'.trans hphase, hnfilt'.trans hnfilt, fun k => (hslot' k).trans (hslot k),
    fun k => (hring' k).trans (hring k)⟩

theorem SameOutsideFilters.trans (h : SameOutsideFilters c s t) (h' : SameOutsideFilters c t u) :
    SameOutsideFilters c s u := by
  obtain ⟨hsur, hlen, hpcmin, hilv, hpcmout, hch, hchain, hphase, hnfilt⟩ := h
  obtain ⟨hsur', hlen', hpcmin', hilv', hpcmout', hch', hchain', hphase', hnfilt'⟩ := h'
  exact ⟨hsur.trans hsur', hlen.trans hlen', fun i => (hpcmin' i).trans (hpcmin i), fun i => (hilv' i).trans (hilv i),
    fun i => (hpcmout' i).trans (hpcmout i), fun i => (hch' i).trans (hch i), hchain.trans hchain',
    hphase'.trans hphase, hnfilt'.trans hnfilt⟩

theorem sameOutsideFilters_refl (c : Channel) (s : State) : SameOutsideFilters c s s := by
  obtain ⟨hsur, hlen, ⟨hpcmin, hilv, hch, hpcmout⟩, hchain⟩ := sameButRecord_refl s
  exact ⟨hsur, hlen, hpcmin, hilv, hpcmout, hch _, hchain _, rfl, rfl⟩

end Transitive

/-! ## All passes (R124) -/

section Passes

variable (c : Channel) (n : Nat)

theorem sameOutsideFilters_foldl (ks : List Nat) (s : State) :
    SameOutsideFilters c s (ks.foldl (State.applySlot c n) s) := by
  induction ks generalizing s with
  | nil => exact sameOutsideFilters_refl c s
  | cons k ks ih => exact (sameOutsideFilters_applySlot c n s k).trans (ih _)

theorem foldl_applySlot_chAt_of_le {i : Nat} (h : n ≤ i) (ks : List Nat) (s : State) :
    (ks.foldl (State.applySlot c n) s).chAt c i = s.chAt c i := by
  induction ks generalizing s with
  | nil => rfl
  | cons k ks ih => rw [List.foldl_cons, ih, applySlot_chAt_self, if_neg (Nat.not_lt.mpr h)]

theorem foldl_applySlot_filterAt_of_not_mem {j : Nat} {ks : List Nat} (h : j ∉ ks) (s : State) :
    filterAt c (ks.foldl (State.applySlot c n) s) j = filterAt c s j := by
  induction ks generalizing s with
  | nil => rfl
  | cons k ks ih =>
    rw [List.mem_cons, not_or] at h
    obtain ⟨hne, hnotin⟩ := h
    rw [List.foldl_cons, ih hnotin, applySlot_filterAt_of_ne c n s k hne]

/-- The passes of `m` slots from slot `k` up are `slotMajor`: each pass finds the samples that the one before left, and no
pass touches the filter of a slot before its turn or after it. -/
theorem foldl_applySlot_eq_slotMajor (m : Nat) : ∀ (k : Nat) (s : State),
    (elements (((List.range' k m).foldl (State.applySlot c n) s).chAt c) n,
      (List.range' k m).map (filterAt c ((List.range' k m).foldl (State.applySlot c n) s))) =
    slotMajor (Config.nanBits s.freeTick) k ((List.range' k m).map (filterAt c s)) (elements (s.chAt c) n) := by
  induction m with
  | zero => intro k s; rfl
  | succ m ih =>
    intro k s
    have hnotin : k ∉ List.range' (k + 1) m := by simp [List.mem_range']; omega
    have hrest : (List.range' (k + 1) m).map (filterAt c (State.applySlot c n s k)) =
        (List.range' (k + 1) m).map (filterAt c s) := by
      refine List.map_congr_left fun j hj => applySlot_filterAt_of_ne c n s k fun heq => hnotin (heq ▸ hj)
    have hpass := ih (k + 1) (State.applySlot c n s k)
    rw [hrest, applySlot_samples, applySlot_freeTick] at hpass
    have hfirst : filterAt c ((List.range' (k + 1) m).foldl (State.applySlot c n) (State.applySlot c n s k)) k =
        (slotPass c n s k).2 := by
      rw [foldl_applySlot_filterAt_of_not_mem c n hnotin, applySlot_filterAt_self]
    simp only [List.range'_succ, List.map_cons, List.foldl_cons, slotMajor, hfirst]
    rw [← slotPass, ← hpass]

end Passes

/-! ## The command (R124) -/

section Apply

variable {c : Channel} {s : State}

theorem word0_apply (c : Channel) : (Instr.apply c).word0 = 0x22000000#32 + chBit c := by
  cases c <;> rfl

theorem encode_apply (c : Channel) : encode (.apply c) = [0x22000000#32 + chBit c] :=
  congrArg (fun w => [w]) (word0_apply c)

theorem exec_apply_of_active (hactive : (s.chain c).phase = .active) (hle : (s.lenCh c).toNat ≤ s.maxf) :
    exec (.apply c) s = .next ((s.applyChain c).complete .ok (0x22000000#32 + chBit c)) := by
  rw [← word0_apply]
  exact (if_neg (not_not_intro hactive)).trans (if_neg (Nat.not_lt.mpr hle))

theorem exec_apply_of_not_active (h : (s.chain c).phase ≠ .active) :
    exec (.apply c) s = .next (s.complete .chainState (0x22000000#32 + chBit c)) := by
  rw [← word0_apply]
  exact if_pos h

theorem exec_apply_of_tooLong (hactive : (s.chain c).phase = .active) (hlt : s.maxf < (s.lenCh c).toNat) :
    exec (.apply c) s = .next (s.complete .badLength (0x22000000#32 + chBit c)) := by
  rw [← word0_apply]
  exact (if_neg (not_not_intro hactive)).trans (if_pos hlt)

theorem applyChain_eq (s : State) (c : Channel) :
    s.applyChain c = (List.range' 0 (s.chain c).nfilt.toNat).foldl (State.applySlot c (s.lenCh c).toNat) s := by
  rw [State.applyChain, List.range_eq_range']

theorem sameOutsideFilters_applyChain (s : State) (c : Channel) : SameOutsideFilters c s (s.applyChain c) :=
  sameOutsideFilters_foldl c _ _ s

/-- All passes leave what `slotMajor` gives of the chain's filters and samples. -/
theorem applied_applyChain (s : State) (c : Channel) (w : Word) :
    Applied c (slotMajor (Config.nanBits s.freeTick) 0 (filtersOf c s) (samplesOf c s)) s
      ((s.applyChain c).complete .ok w) := by
  obtain ⟨hsur, hlen, hpcmin, hilv, hpcmout, hch, hchain, hphase, hnfilt⟩ := sameOutsideFilters_applyChain s c
  have hout := foldl_applySlot_eq_slotMajor c (s.lenCh c).toNat (s.chain c).nfilt.toNat 0 s
  rw [← applyChain_eq, ← List.range_eq_range'] at hout
  obtain ⟨-, -, hlenCh, -⟩ := id hlen
  have hlength : (s.applyChain c).lenCh c = s.lenCh c := hlenCh c
  refine ⟨by simpa using hsur, by simpa using hlen, by simpa using hpcmin, by simpa using hilv, by simpa using hpcmout,
    by simpa using hch, by simpa using hchain, by simpa using hphase, by simpa using hnfilt, ?samples, ?beyond, ?filters,
    ?slots⟩
  case samples =>
    simp only [samplesOf, complete_lenCh, hlength]
    exact (List.map_congr_left fun i _ => complete_chAt _ _ _ c i).trans (congrArg Prod.fst hout)
  case beyond =>
    intro i hi
    rw [complete_chAt, applyChain_eq, foldl_applySlot_chAt_of_le c _ hi]
  case filters =>
    simp only [filtersOf, complete_chain, complete_slot, complete_ring, hnfilt]
    exact congrArg Prod.snd hout
  case slots =>
    intro k hk
    have hfilter : filterAt c (s.applyChain c) k = filterAt c s k := by
      rw [applyChain_eq]
      exact foldl_applySlot_filterAt_of_not_mem c _ (by simp [List.mem_range']; omega) s
    simpa [filterAt] using hfilter

end Apply

/-- Settles O30: the passes are `slotMajor`, and the two errors only complete, ChainState before BadLength. -/
theorem applyRunsTheFiltersInOrder : Obligations.ApplyRunsTheFiltersInOrder := by
  refine fun c s => ⟨encode_apply c, fun hactive hle => ?active, fun h => ?notActive, fun hactive hlt => ?tooLong⟩
  case active =>
    obtain ⟨hstatus, herrword, htick⟩ := recordUntouched_foldl_applySlot s c (s.lenCh c).toNat
      (List.range (s.chain c).nfilt.toNat)
    exact ⟨_, exec_apply_of_active hactive hle, recorded_complete .ok _ hstatus herrword htick,
      applied_applyChain s c _⟩
  case notActive => exact ⟨_, exec_apply_of_not_active h, onlyRecorded_complete s .chainState _⟩
  case tooLong => exact ⟨_, exec_apply_of_tooLong hactive hlt, onlyRecorded_complete s .badLength _⟩

/-! ## Sample by sample (R126) -/

section SampleMajor

variable (free : Nat → Nat → Nat → BitVec 64)

/-- `slotMajor` on a buffer whose first sample has the number `i`. -/
def slotMajorFrom (i : Nat) : Nat → List FilterState → List F32 → List F32 × List FilterState
  | _, [], xs => (xs, [])
  | k, st :: rest, xs =>
    let r := runFilter (free k) i st xs
    let q := slotMajorFrom i (k + 1) rest r.1
    (q.1, r.2 :: q.2)

theorem slotMajorFrom_zero (sts : List FilterState) (k : Nat) (xs : List F32) :
    slotMajorFrom free 0 k sts xs = slotMajor free k sts xs := by
  induction sts generalizing k xs with
  | nil => rfl
  | cons st rest ih => simp only [slotMajorFrom, slotMajor, ih]

theorem slotMajorFrom_nil (i : Nat) (sts : List FilterState) (k : Nat) : slotMajorFrom free i k sts [] = ([], sts) := by
  induction sts generalizing k with
  | nil => rfl
  | cons st rest ih => simp only [slotMajorFrom, runFilter, ih]

/-- The first sample can go through all filters before the rest of the buffer goes through any: what a filter makes of the
rest depends on the state that the first sample left in this filter, and on nothing else. -/
theorem slotMajorFrom_cons (i : Nat) (x : F32) (xs : List F32) (sts : List FilterState) (k : Nat) :
    slotMajorFrom free i k sts (x :: xs) =
      ((throughFilters free i k sts x).1 :: (slotMajorFrom free (i + 1) k (throughFilters free i k sts x).2 xs).1,
        (slotMajorFrom free (i + 1) k (throughFilters free i k sts x).2 xs).2) := by
  induction sts generalizing k x xs with
  | nil => rfl
  | cons st rest ih => simp only [slotMajorFrom, runFilter, throughFilters, ih]

theorem slotMajorFrom_eq_sampleMajor (xs : List F32) (i : Nat) (sts : List FilterState) :
    slotMajorFrom free i 0 sts xs = sampleMajor free i sts xs := by
  induction xs generalizing i sts with
  | nil => exact slotMajorFrom_nil free i sts 0
  | cons x xs ih => rw [slotMajorFrom_cons, ih, sampleMajor]

theorem slotMajor_eq_sampleMajor (sts : List FilterState) (xs : List F32) :
    slotMajor free 0 sts xs = sampleMajor free 0 sts xs :=
  (slotMajorFrom_zero free sts 0 xs).symm.trans (slotMajorFrom_eq_sampleMajor free xs 0 sts)

end SampleMajor

/-- Settles O31: the command leaves what `slotMajor` gives, and `sampleMajor` gives the same. -/
theorem applyEqualsSampleBySample : Obligations.ApplyEqualsSampleBySample := by
  intro c s hactive hle
  rw [← slotMajor_eq_sampleMajor]
  exact ⟨_, exec_apply_of_active hactive hle, applied_applyChain s c _⟩

end Machine
end Sys2Proof
end

section
/-! What a command can do to the state before it completes (`Effect`, one constructor per effect), and what a step can do
(`Kept`). The statements about every instruction and about every step follow by cases on these. -/

namespace Sys2Proof
namespace Machine

/-! ## The effect of a command -/

/-- What command `i` has made of the state `s` when it completes. A command that ends with an error has made nothing of it,
or has taken the chain it configures to FAILED (60_exceptions.md R220). -/
inductive Effect (s : State) : Instr → State → Prop
  | nothing (i : Instr) : Effect s i s
  | clearRecord : Effect s .clrst s.clearRecord
  | reset : Effect s .srst s.warmReset
  | decode (h : s.lenIn.toNat ≤ 2 * s.maxf) : Effect s .decode (s.fillIlv (fun i => decode1 (s.pcminAt i)) s.lenIn)
  | encode (h : s.lenIlv.toNat ≤ 2 * s.maxf) :
    Effect s .encode (s.fillPcmout (fun i => encode1 (s.ilvAt i)) s.lenIlv)
  | split (h : s.lenIlv.toNat ≤ 2 * s.maxf) : Effect s .split s.splitFrames
  | merge (h : s.lenCh0.toNat ≤ s.maxf) : Effect s .merge s.mergeFrames
  | clear (c : Channel) : Effect s (.chClear c) (s.clearChain c)
  | activate (c : Channel) : Effect s (.chAct c) (s.setChain c { s.chain c with phase := .active })
  | apply (c : Channel) (h : (s.lenCh c).toNat ≤ s.maxf) : Effect s (.apply c) (s.applyChain c)
  | fail {i : Instr} {c : Channel} (hc : configuredChannel i = some c) : Effect s i (s.failChain c)
  | build {i : Instr} {c : Channel} {r : Slot} (hc : configuredChannel i = some c) (hopen : (s.chain c).phase = .opened)
      (hfree : (s.chain c).nfilt ≠ s.nslot) (hr : r.IsBuilt) : Effect s i (s.cfgCommit c (s.chain c).nfilt.toNat r)

/-- The command completes with some code, and has had one of its effects by then. -/
def HasEffect (i : Instr) (s : State) : Prop :=
  ∃ code u, exec i s = .next (u.complete code i.word0) ∧ Effect s i u

/-! ## The slots that are built (10_state.md R23 to R28) -/

theorem isDelay_of_coerceTaps (n : Nat) : (delaySlot (coerceTaps n).1 (coerceTaps n).2).IsDelay := by
  by_cases h : 2 ^ 28 < n
  case pos =>
    rw [coerceTaps_of_lt h]
    exact ⟨Or.inr ⟨rfl, rfl⟩, by decide, by decide, by decide, rfl⟩
  case neg =>
    rw [coerceTaps_of_le (Nat.le_of_not_lt h)]
    exact isDelay_delaySlot (by omega) (by omega)

theorem isVolume_volumeSlot (gain : F32) : (volumeSlot gain).IsVolume := by
  refine ⟨?_, rfl⟩
  have hgain := gain.isLt
  rw [volumeSlot, BitVec.toNat_setWidth]
  omega

/-- KIND as a number: TYPE and PKIND do not overlap with the 3, nor with each other. -/
theorem biquadKind_eq_ofNat (type : ResponseType) (pkind : ParamKind) :
    biquadKind type pkind = BitVec.ofNat 64 (3 + 16 * type.code + 256 * (paramKindCode pkind).toNat) := by
  have hcode : type.code < 8 := by cases type <;> decide
  have hpkind := (paramKindCode pkind).isLt
  apply BitVec.eq_of_toNat_eq
  simp only [biquadKind, BitVec.toNat_add, BitVec.toNat_shiftLeft, BitVec.toNat_setWidth, BitVec.toNat_ofNat,
    Nat.shiftLeft_eq]
  omega

/-- The kinds that a type takes, as numbers (46_biquad_coefficients.md R160). -/
theorem ResponseType.code_of_takes {type : ResponseType} {pkind : ParamKind} (h : type.takes pkind = true) :
    (type.code ≤ 5 ∧ (paramKindCode pkind).toNat ≤ 1) ∨
      ((type.code = 6 ∨ type.code = 7) ∧ (paramKindCode pkind).toNat = 2) := by
  cases type
  case lowShelf | highShelf =>
    obtain rfl := of_decide_eq_true h
    decide
  all_goals
    obtain rfl | rfl := of_decide_eq_true h
    all_goals decide

/-- The types and the kinds that the validation lets through are those of a biquad slot. -/
theorem isBiquad_biquadSlot {type : ResponseType} {pkind : ParamKind} {ops : BiquadOperands}
    (h : biquadOperandsValid type pkind ops = true) (free : Nat → BitVec 64) (raw : RawCoefficients) :
    (biquadSlot free type pkind raw).IsBiquad := by
  simp only [biquadOperandsValid, Bool.and_eq_true] at h
  obtain ⟨⟨⟨htakes, -⟩, -⟩, -⟩ := h
  exact ⟨⟨type.code, (paramKindCode pkind).toNat, biquadKind_eq_ofNat type pkind, ResponseType.code_of_takes htakes⟩,
    rfl, rfl, rfl⟩

/-! ## Every command has one of its effects -/

section HasEffect

variable {i : Instr} {c : Channel} {s : State}

theorem hasEffect_of_error {code : ResultCode} (h : exec i s = .next (s.complete code i.word0)) : HasEffect i s :=
  ⟨code, s, h, .nothing i⟩

/-- A CFG command fails its chain or builds a slot, whatever its own part tests. -/
theorem hasEffect_of_cfgBegin {build : Nat → State} (hc : configuredChannel i = some c)
    (hexec : exec i s = .next (s.cfgBegin c i.word0 build))
    (hbuild : ∀ k, build k = s.cfgFail c i.word0 ∨
      ∃ r code, Slot.IsBuilt r ∧ build k = (s.cfgCommit c k r).complete code i.word0) : HasEffect i s := by
  obtain ⟨-, hbegin⟩ | ⟨-, -, hbegin⟩ | ⟨hopen, hfree, hbegin⟩ := cfgBegin_cases s c i.word0 build
  all_goals rw [hbegin] at hexec
  case inl => exact hasEffect_of_error hexec
  case inr.inl => exact ⟨.chainFull, _, hexec, .fail hc⟩
  case inr.inr =>
    obtain hfail | ⟨r, code, hr, hcommit⟩ := hbuild (s.chain c).nfilt.toNat
    · rw [hfail] at hexec
      exact ⟨.invalidParameter, _, hexec, .fail hc⟩
    · rw [hcommit] at hexec
      exact ⟨code, _, hexec, .build hc hopen hfree hr⟩

theorem hasEffect_cfgDlyt (taps : Word) : HasEffect (.cfgDlyt c taps) s :=
  hasEffect_of_cfgBegin rfl rfl fun _ => Or.inr ⟨_, _, Or.inl (isDelay_of_coerceTaps taps.toNat), rfl⟩

theorem hasEffect_cfgDlym (delayMs sampleRate : Word) : HasEffect (.cfgDlym c delayMs sampleRate) s := by
  refine hasEffect_of_cfgBegin rfl rfl fun k => ?_
  by_cases h : sampleRate = 0#32
  case pos => exact Or.inl (if_pos h)
  case neg => exact Or.inr ⟨_, _, Or.inl (isDelay_of_coerceTaps (tapsOfDelay delayMs sampleRate)), if_neg h⟩

theorem hasEffect_cfgVol (curve : Curve) (gain : F32) : HasEffect (.cfgVol c curve gain) s := by
  refine hasEffect_of_cfgBegin rfl rfl fun k => ?_
  by_cases h : curve ≠ .linear
  case pos => exact Or.inl (if_pos h)
  case neg => exact Or.inr ⟨_, _, Or.inr (Or.inl (isVolume_volumeSlot gain)), if_neg h⟩

theorem hasEffect_biquadInstr (type : ResponseType) (pkind : ParamKind) (ops : BiquadOperands) :
    HasEffect (biquadInstr type c pkind ops) s := by
  obtain ⟨formulas, hexec⟩ := exec_biquadInstr type c pkind ops s
  refine hasEffect_of_cfgBegin (configuredChannel_biquadInstr type c pkind ops) hexec fun k => ?_
  by_cases h : biquadOperandsValid type pkind ops = true
  case pos => exact Or.inr ⟨_, _, Or.inr (Or.inr (isBiquad_biquadSlot h _ _)), if_pos h⟩
  case neg => exact Or.inl (if_neg h)

theorem hasEffect_decode : HasEffect .decode s := by
  obtain h | h := Nat.lt_or_ge (2 * s.maxf) s.lenIn.toNat
  · exact hasEffect_of_error (exec_decode_of_lt h)
  · exact ⟨_, _, exec_decode_of_le h, .decode h⟩

theorem hasEffect_encode : HasEffect .encode s := by
  obtain h | h := Nat.lt_or_ge (2 * s.maxf) s.lenIlv.toNat
  · exact hasEffect_of_error (exec_encode_of_lt h)
  · exact ⟨_, _, exec_encode_of_le h, .encode h⟩

theorem hasEffect_split : HasEffect .split s := by
  obtain h | h := Nat.lt_or_ge (2 * s.maxf) s.lenIlv.toNat
  · exact hasEffect_of_error (exec_split_of_lt h)
  · exact ⟨_, _, exec_split_of_le h, .split h⟩

theorem hasEffect_merge : HasEffect .merge s := by
  by_cases hlong : s.maxf < s.lenCh0.toNat ∨ s.maxf < s.lenCh1.toNat
  case pos => exact hasEffect_of_error (exec_merge_of_tooLong hlong)
  case neg =>
    obtain ⟨h0, h1⟩ : s.lenCh0.toNat ≤ s.maxf ∧ s.lenCh1.toNat ≤ s.maxf := by omega
    by_cases hne : s.lenCh0 ≠ s.lenCh1
    case pos => exact hasEffect_of_error (exec_merge_of_lengths_ne h0 h1 hne)
    case neg => exact ⟨_, _, exec_merge_of_lengths_eq h0 (not_not.mp hne).symm, .merge h0⟩

theorem hasEffect_chAct : HasEffect (.chAct c) s := by
  by_cases h : (s.chain c).phase = .failed
  case pos => exact hasEffect_of_error (code := .chainState) (if_pos h)
  case neg => exact ⟨.ok, _, if_neg h, .activate c⟩

theorem hasEffect_apply : HasEffect (.apply c) s := by
  by_cases hphase : (s.chain c).phase ≠ .active
  case pos => exact hasEffect_of_error (code := .chainState) (if_pos hphase)
  case neg =>
    obtain h | h := Nat.lt_or_ge s.maxf (s.lenCh c).toNat
    · exact hasEffect_of_error (code := .badLength) ((if_neg hphase).trans (if_pos h))
    · exact ⟨.ok, _, (if_neg hphase).trans (if_neg (Nat.not_lt.mpr h)), .apply c h⟩

end HasEffect

theorem exec_hasEffect (i : Instr) (s : State) : HasEffect i s := by
  cases i with
  | nop => exact hasEffect_of_error (exec_nop s)
  | clrst => exact ⟨.ok, _, rfl, .clearRecord⟩
  | srst => exact ⟨.ok, _, rfl, .reset⟩
  | decode => exact hasEffect_decode
  | encode => exact hasEffect_encode
  | split => exact hasEffect_split
  | merge => exact hasEffect_merge
  | chClear c => exact ⟨.ok, _, rfl, .clear c⟩
  | chAct c => exact hasEffect_chAct
  | apply c => exact hasEffect_apply
  | cfgDlyt c taps => exact hasEffect_cfgDlyt taps
  | cfgDlym c delayMs sampleRate => exact hasEffect_cfgDlym delayMs sampleRate
  | cfgVol c curve gain => exact hasEffect_cfgVol curve gain
  | cfgBqLp c pkind ops => exact hasEffect_biquadInstr .lowPass pkind ops
  | cfgBqHp c pkind ops => exact hasEffect_biquadInstr .highPass pkind ops
  | cfgBqBp c pkind ops => exact hasEffect_biquadInstr .bandPass pkind ops
  | cfgBqNotch c pkind ops => exact hasEffect_biquadInstr .notch pkind ops
  | cfgBqApk c pkind ops => exact hasEffect_biquadInstr .audioPeak pkind ops
  | cfgBqPeq c pkind ops => exact hasEffect_biquadInstr .peakingEq pkind ops
  | cfgBqLs c pkind ops => exact hasEffect_biquadInstr .lowShelf pkind ops
  | cfgBqHs c pkind ops => exact hasEffect_biquadInstr .highShelf pkind ops

/-! ## Every step answers a next state -/

theorem runPacket_answers (w : Word) (operands : List Word) (s : State) : ∃ t, runPacket w operands s = .next t := by
  cases hdecode : decode (w :: operands) with
  | error r => exact ⟨_, runPacket_of_error hdecode s⟩
  | ok i =>
    obtain ⟨code, u, hexec, -⟩ := exec_hasEffect i s
    exact ⟨_, by rw [runPacket, hdecode]; exact hexec⟩

theorem step_of_inbox_nil {s : State} (h : s.inbox = []) : step s = .next s := by
  rw [step, h]
  rfl

theorem step_answers (s : State) : ∃ t, step s = .next t := by
  cases hinbox : s.inbox with
  | nil => exact ⟨s, step_of_inbox_nil hinbox⟩
  | cons a rest =>
    rw [step_of_inbox_cons hinbox]
    cases a with
    | packet w operands => exact runPacket_answers w operands _
    | read addr => exact ⟨_, rfl⟩
    | write w => exact ⟨_, rfl⟩
    | reset => exact ⟨_, rfl⟩
    | resetDuring w operands => exact ⟨_, rfl⟩
    | powerUp => exact ⟨_, rfl⟩

/-- Settles O13: every packet completes, and every other action answers by its definition. -/
theorem everyStepAnswersNext : Obligations.EveryStepAnswersNext :=
  ⟨step_answers, fun _ => step_of_inbox_nil⟩

/-! ## A property that everything a step can do keeps -/

/-- The property is kept by everything that a step is made of. -/
structure Kept (P : State → Prop) : Prop where
  inbox : ∀ s l, P s → P { s with inbox := l }
  answer : ∀ s a, P s → P (s.answer a)
  write : ∀ s w, P s → P (s.hostWrite w)
  effect : ∀ s i u, P s → Effect s i u → P u
  complete : ∀ s code w, P s → P (s.complete code w)
  reset : ∀ s, P s → P s.warmReset
  powerUp : ∀ s, P s → P s.powerUpReset
  abandon : ∀ s i, P s → P (s.abandon i)

section Kept

variable {P : State → Prop} {s t : State}

theorem Kept.runPacket (h : Kept P) (hs : P s) {w : Word} {operands : List Word}
    (hrun : runPacket w operands s = .next t) : P t := by
  cases hdecode : decode (w :: operands) with
  | error r =>
    rw [runPacket_of_error hdecode] at hrun
    obtain rfl := Host.Outcome.next.inj hrun
    exact h.complete _ _ _ hs
  | ok i =>
    obtain ⟨code, u, hexec, heffect⟩ := exec_hasEffect i s
    rw [Machine.runPacket, hdecode] at hrun
    obtain rfl := Host.Outcome.next.inj (hexec.symm.trans hrun)
    exact h.complete _ _ _ (h.effect _ _ _ hs heffect)

theorem Kept.cutShort (h : Kept P) (hs : P s) (w : Word) (operands : List Word) : P (cutShort w operands s) := by
  rw [Machine.cutShort]
  split
  · exact h.abandon _ _ hs
  · exact h.reset _ hs

theorem Kept.step (h : Kept P) (hs : P s) (hstep : step s = .next t) : P t := by
  cases hinbox : s.inbox with
  | nil =>
    rw [step_of_inbox_nil hinbox] at hstep
    obtain rfl := Host.Outcome.next.inj hstep
    exact hs
  | cons a rest =>
    rw [step_of_inbox_cons hinbox] at hstep
    have hs' := h.inbox s rest hs
    cases a with
    | packet w operands => exact h.runPacket hs' hstep
    | read addr => exact Host.Outcome.next.inj hstep ▸ h.answer _ _ hs'
    | write w => exact Host.Outcome.next.inj hstep ▸ h.write _ _ hs'
    | reset => exact Host.Outcome.next.inj hstep ▸ h.reset _ hs'
    | resetDuring w operands => exact Host.Outcome.next.inj hstep ▸ h.cutShort hs' w operands
    | powerUp => exact Host.Outcome.next.inj hstep ▸ h.powerUp _ hs'

end Kept

/-! ## A property that every pass of APPLY keeps -/

theorem applyChain_keeps {P : State → Prop} {c : Channel} (h : ∀ s n k, P s → P (State.applySlot c n s k)) {s : State}
    (hs : P s) : P (s.applyChain c) := by
  have hfold (n : Nat) (ks : List Nat) : ∀ s, P s → P (ks.foldl (State.applySlot c n) s) := by
    induction ks with
    | nil => exact fun _ hs => hs
    | cons k ks ih => exact fun s hs => ih _ (h s n k hs)
  exact hfold _ _ s hs

theorem runFilter_keeps {P : FilterState → Prop} (h : ∀ free st x, P st → P (stepFilter free st x).2)
    (free : Nat → Nat → BitVec 64) (xs : List F32) (i : Nat) {st : FilterState} (hst : P st) :
    P (runFilter free i st xs).2 := by
  induction xs generalizing i st with
  | nil => exact hst
  | cons x xs ih => exact ih (i + 1) (h _ _ x hst)

/-- A property of the states that every buffer written whole keeps is kept by a reset that cuts a command short. -/
theorem foldl_scramble_keeps {P : State → Prop} (h : ∀ s b, P s → P (s.scramble b)) (bs : List Buffer) {s : State}
    (hs : P s) : P (bs.foldl State.scramble s) := by
  induction bs generalizing s with
  | nil => exact hs
  | cons b bs ih => exact ih (h s b hs)

/-! ## The canonical form of memory -/

theorem applySlot_wf {s : State} (h : s.mem.wf) (c : Channel) (n k : Nat) : (State.applySlot c n s k).mem.wf := by
  have hring : Canonical 0#32 (slotPass c n s k).2.2 :=
    runFilter_keeps (P := fun st => Canonical 0#32 st.2) (fun free st x hst => stepFilter_canonical free hst x) _ _ 0
      (canonical_ring h c k)
  have hcells := storeChCells_wf h c 0 (slotPass c n s k).1
  rw [applySlot_eq]
  exact setRing_wf (by simpa using hcells) c k hring

theorem effect_wf {s u : State} {i : Instr} (h : s.mem.wf) (heffect : Effect s i u) : u.mem.wf := by
  cases heffect with
  | nothing => exact h
  | clearRecord => exact h
  | reset => exact warmReset_wf h
  | decode => exact storeIlv_wf h 0 _
  | encode => exact storePcmout_wf h 0 _
  | split => exact storeChannels_wf h 0 _ _
  | merge => exact storeIlv_wf h 0 _
  | clear c => exact clearChain_wf h c
  | activate c => exact setChain_wf h c _
  | apply c => exact applyChain_keeps (P := fun s => s.mem.wf) (fun s n k hs => applySlot_wf hs c n k) h
  | fail hc => exact setChain_wf h _ _
  | build hc => exact cfgCommit_wf h _ _ _

theorem kept_wf : Kept (fun s => s.mem.wf) where
  inbox _ _ h := h
  answer _ _ h := h
  write _ w h := hostWrite_wf h w
  effect _ _ _ h heffect := effect_wf h heffect
  complete _ code w h := complete_wf h code w
  reset _ h := warmReset_wf h
  powerUp s _ := powerUpReset_wf s
  abandon _ i h := abandon_wf h i

/-- Settles O54. Every update of a memory space keeps its canonical form, so everything a step is made of does. -/
theorem stepKeepsMemoryForm : Obligations.StepKeepsMemoryForm := fun _ _ h hstep => kept_wf.step h hstep

end Machine
end Sys2Proof
end

section
/-! Every step keeps both chains legal (10_state.md R18, R22 to R25, R28, R29). -/

namespace Sys2Proof
namespace Machine

/-! ## The chain of one channel -/

section ChainOk

variable {s t : State} {c : Channel}

theorem chainOk_of_eq (hchain : t.chain c = s.chain c) (hdelays : t.delays c = s.delays c) (hnslot : t.nslot = s.nslot)
    (h : s.ChainOk c) : t.ChainOk c := by
  have hslot (k : Nat) : t.slot c k = s.slot c k := by rw [State.slot, hchain, State.slot]
  have hring (k : Nat) : t.ring c k = s.ring c k := by rw [State.ring, hdelays, State.ring]
  constructor
  case nfilt_le => simpa [hchain, hnslot] using h.nfilt_le
  case built => simpa [hchain, hslot] using h.built
  case empty => simpa [hchain, hslot] using h.empty
  case ring => simpa [hslot, hring] using h.ring
  case canonical => simpa [hchain] using h.canonical

theorem chainOk_of_initial (hchain : s.chain c = Chain.initial) (hdelays : s.delays c = []) : s.ChainOk c := by
  constructor
  case nfilt_le => simp [hchain, Chain.initial]
  case built => simp [hchain, Chain.initial]
  case empty => simp [State.slot, hchain, Chain.initial]
  case ring => simp [State.ring, hdelays]
  case canonical => simpa [hchain, Chain.initial] using canonical_nil Slot.empty

/-- STATE is no part of what makes a chain legal. -/
theorem chainOk_setPhase (p : ChainPhase) (h : ∀ c, s.ChainOk c) (c c' : Channel) :
    (s.setChain c { s.chain c with phase := p }).ChainOk c' := by
  obtain rfl | rfl := eq_or_eq_other c c'
  · obtain ⟨hle, hbuilt, hempty, hring, hcanonical⟩ := h c'
    constructor
    case nfilt_le => simpa using hle
    case built => simpa using hbuilt
    case empty => simpa using hempty
    case ring => simpa using hring
    case canonical => simpa using hcanonical
  · exact chainOk_of_eq (setChain_chain_other s c _) (setChain_delays s c _ _) (setChain_nslot s c _) (h _)

theorem chainOk_clearChain (h : ∀ c, s.ChainOk c) (c c' : Channel) : (s.clearChain c).ChainOk c' := by
  obtain rfl | rfl := eq_or_eq_other c c'
  · exact chainOk_of_initial (clearChain_chain_self s c') (clearChain_delays_self s c')
  · exact chainOk_of_eq (clearChain_chain_other s c) (clearChain_delays_other s c) (clearChain_nslot s c) (h _)

end ChainOk

/-! ## A commit (43_filter_chain.md R125) -/

theorem cfgCommit_slots_self (s : State) (c : Channel) (k : Nat) (r : Slot) :
    ((s.cfgCommit c k r).chain c).slots = storeOr Slot.empty (s.chain c).slots k r := by
  cases c <;> rfl

theorem chainOk_cfgCommit {s : State} (h : ∀ c, s.ChainOk c) {c : Channel} (hopen : (s.chain c).phase = .opened)
    (hfree : (s.chain c).nfilt ≠ s.nslot) {r : Slot} (hr : r.IsBuilt) (c' : Channel) :
    (s.cfgCommit c (s.chain c).nfilt.toNat r).ChainOk c' := by
  obtain rfl | rfl := eq_or_eq_other c c'
  case inr =>
    exact chainOk_of_eq (cfgCommit_chain_other s c _ r) (cfgCommit_delays_other s c _ r) (cfgCommit_nslot s c _ r) (h _)
  case inl =>
    obtain ⟨hle, hbuilt, hempty, hring, hcanonical⟩ := h c'
    have hlt : (s.chain c').nfilt.toNat < s.nslot.toNat :=
      Nat.lt_of_le_of_ne hle fun heq => hfree (BitVec.eq_of_toNat_eq heq)
    have hcount := cfgCommit_nfilt_toNat ⟨hopen, hlt⟩ r
    constructor
    case nfilt_le =>
      rw [hcount, cfgCommit_nslot]
      exact hlt
    case built =>
      intro k hk
      rw [hcount] at hk
      rw [cfgCommit_slot]
      split
      case isTrue => exact hr
      case isFalse hne => exact hbuilt k (by simp only [true_and] at hne; omega)
    case empty =>
      intro k hk
      rw [hcount] at hk
      rw [cfgCommit_slot, if_neg (by omega)]
      exact hempty k (by omega)
    case ring =>
      intro k
      rw [cfgCommit_ring, cfgCommit_slot]
      split
      case isTrue => simp
      case isFalse => exact hring k
    case canonical =>
      rw [cfgCommit_slots_self]
      exact canonical_storeOr hcanonical _ r

/-! ## APPLY (43_filter_chain.md R124) -/

/-- The delay memory has no element at or beyond TAPS. -/
def RingBounded (st : FilterState) : Prop := ∀ p ∈ st.2, p.1 < st.1.taps.toNat

/-- A step leaves a built slot built, of the same kind, and its delay memory within TAPS. -/
theorem stepFilter_keeps_built (free : Nat → BitVec 64) {st : FilterState} (x : F32)
    (h : st.1.IsBuilt ∧ RingBounded st) :
    (stepFilter free st x).2.1.IsBuilt ∧ RingBounded (stepFilter free st x).2 := by
  obtain ⟨r, ring⟩ := st
  obtain ⟨hdelay | hvolume | hbiquad, hring⟩ := h
  case inl =>
    rw [stepFilter_of_isDelay hdelay]
    refine ⟨Or.inl (isDelay_stepDelay hdelay x), fun p hp => ?_⟩
    obtain ⟨-, -, -, hhead, -⟩ := hdelay
    obtain rfl | hp := mem_storeOr hp
    · exact hhead
    · exact hring p hp
  case inr.inl =>
    rw [volumeStepIsOneProduct free (r, ring) x hvolume]
    exact ⟨Or.inr (Or.inl hvolume), hring⟩
  case inr.inr =>
    rw [stepFilter_of_isBiquad (st := (r, ring)) hbiquad]
    exact ⟨Or.inr (Or.inr hbiquad), hring⟩

/-- A step leaves an EMPTY slot as it is. -/
theorem stepFilter_keeps_empty (free : Nat → BitVec 64) {st : FilterState} (x : F32)
    (h : st.1 = Slot.empty ∧ RingBounded st) :
    (stepFilter free st x).2.1 = Slot.empty ∧ RingBounded (stepFilter free st x).2 := by
  obtain ⟨r, ring⟩ := st
  obtain ⟨rfl, hring⟩ := h
  exact ⟨rfl, hring⟩

theorem applySlot_slots_self (c : Channel) (n : Nat) (s : State) (k : Nat) :
    ((State.applySlot c n s k).chain c).slots = storeOr Slot.empty (s.chain c).slots k (slotPass c n s k).2.1 := by
  cases c <;> rfl

theorem chainOk_applySlot {s : State} (h : ∀ c, s.ChainOk c) (c : Channel) (n k : Nat) (c' : Channel) :
    (State.applySlot c n s k).ChainOk c' := by
  have hnslot : (State.applySlot c n s k).nslot = s.nslot := by simp [applySlot_eq]
  obtain ⟨-, -, -, -, -, -, -, -, hnfilt⟩ := sameOutsideFilters_applySlot c n s k
  obtain rfl | rfl := eq_or_eq_other c c'
  case inr => exact chainOk_of_eq (by simp [applySlot_eq]) (by simp [applySlot_eq]) hnslot (h _)
  case inl =>
    obtain ⟨hle, hbuilt, hempty, hring, hcanonical⟩ := h c'
    have hpassBuilt (hk : k < (s.chain c').nfilt.toNat) :=
      runFilter_keeps (P := fun st => st.1.IsBuilt ∧ RingBounded st) (fun free _ x => stepFilter_keeps_built free x)
        (Config.nanBits s.freeTick k) (elements (s.chAt c') n) 0 (st := filterAt c' s k) ⟨hbuilt k hk, hring k⟩
    have hpassEmpty (hk : (s.chain c').nfilt.toNat ≤ k) :=
      runFilter_keeps (P := fun st => st.1 = Slot.empty ∧ RingBounded st) (fun free _ x => stepFilter_keeps_empty free x)
        (Config.nanBits s.freeTick k) (elements (s.chAt c') n) 0 (st := filterAt c' s k) ⟨hempty k hk, hring k⟩
    constructor
    case nfilt_le => rw [hnfilt, hnslot]; exact hle
    case built =>
      intro j hj
      rw [hnfilt] at hj
      rw [applySlot_slot]
      split
      case isTrue heq =>
        obtain ⟨-, rfl⟩ := heq
        exact (hpassBuilt hj).1
      case isFalse => exact hbuilt j hj
    case empty =>
      intro j hj
      rw [hnfilt] at hj
      rw [applySlot_slot]
      split
      case isTrue heq =>
        obtain ⟨-, rfl⟩ := heq
        exact (hpassEmpty hj).1
      case isFalse => exact hempty j hj
    case ring =>
      intro j
      rw [applySlot_slot, applySlot_ring]
      split
      case isTrue =>
        obtain hk | hk := Nat.lt_or_ge k (s.chain c').nfilt.toNat
        · exact (hpassBuilt hk).2
        · exact (hpassEmpty hk).2
      case isFalse => exact hring j
    case canonical =>
      rw [applySlot_slots_self]
      exact canonical_storeOr hcanonical _ _

/-! ## Everything a step is made of -/

theorem effect_chainOk {s u : State} {i : Instr} (h : ∀ c, s.ChainOk c) (heffect : Effect s i u) (c : Channel) :
    u.ChainOk c := by
  cases heffect with
  | nothing => exact h c
  | clearRecord => exact chainOk_of_eq (clearRecord_chain s c) (clearRecord_delays s c) (clearRecord_nslot s) (h c)
  | reset => exact chainOk_of_initial (warmReset_chain s c) (warmReset_delays s c)
  | decode | encode | split | merge => exact chainOk_of_eq (s := s) (by cases c <;> rfl) (by cases c <;> rfl) rfl (h c)
  | clear c' => exact chainOk_clearChain h c' c
  | activate c' => exact chainOk_setPhase .active h c' c
  | apply c' =>
    exact applyChain_keeps (P := fun s => ∀ c, s.ChainOk c) (fun s n k hs => chainOk_applySlot hs c' n k) h c
  | fail hc => exact chainOk_setPhase .failed h _ c
  | build hc hopen hfree hr => exact chainOk_cfgCommit h hopen hfree hr c

theorem hostWrite_chain (s : State) (w : HostWrite) (c : Channel) :
    (s.hostWrite w).chain c = s.chain c ∧ (s.hostWrite w).delays c = s.delays c ∧ (s.hostWrite w).nslot = s.nslot := by
  cases w with
  | reg i v =>
    simp only [State.hostWrite, State.writeReg]
    split <;> exact ⟨by cases c <;> rfl, by cases c <;> rfl, rfl⟩
  | slot | pcmout => exact ⟨rfl, rfl, rfl⟩
  | pcmin i v | ilv i v =>
    simp only [State.hostWrite]
    split <;> exact ⟨by cases c <;> rfl, by cases c <;> rfl, rfl⟩
  | ch c' i v =>
    simp only [State.hostWrite]
    split <;> simp

theorem kept_chainOk : Kept (fun s => ∀ c, s.ChainOk c) where
  inbox s _ h c := chainOk_of_eq (s := s) (by cases c <;> rfl) (by cases c <;> rfl) rfl (h c)
  answer s _ h c := chainOk_of_eq (s := s) (by cases c <;> rfl) (by cases c <;> rfl) rfl (h c)
  write s w h c := by
    obtain ⟨hchain, hdelays, hnslot⟩ := hostWrite_chain s w c
    exact chainOk_of_eq hchain hdelays hnslot (h c)
  effect _ _ _ h heffect c := effect_chainOk h heffect c
  complete s code w h c :=
    chainOk_of_eq (complete_chain s code w c) (complete_delays s code w c) (complete_nslot s code w) (h c)
  reset s _ c := chainOk_of_initial (warmReset_chain s c) (warmReset_delays s c)
  powerUp _ _ c := chainOk_of_initial (by cases c <;> rfl) (by cases c <;> rfl)
  abandon _ _ _ c := chainOk_of_initial (by cases c <;> rfl) (by cases c <;> rfl)

/-- Settles O55. A commit adds a built slot below NSLOT, a pass of APPLY keeps the kind of its slot and the bounds of its
delay memory, and nothing else touches more of a chain than its STATE, but to empty it. -/
theorem stepKeepsChainsLegal : Obligations.StepKeepsChainsLegal := fun _ _ h hstep => kept_chainOk.step h hstep

end Machine
end Sys2Proof
end

section
/-! Every step keeps the record, the capacities, the buffer memories and LEN_OUT in their ranges (10_state.md R13 to R17,
R30); the state after reset has every invariant, and with the invariants of every step a run from it is safe. -/

namespace Sys2Proof
namespace Machine

/-! ## Cells within a capacity -/

section Bounded

variable {α : Type} {m : List (Nat × α)} {n : Nat}

theorem mem_storeFrom {vs : List α} {i : Nat} {p : Nat × α} (h : p ∈ storeFrom m i vs) :
    p ∈ m ∨ (i ≤ p.1 ∧ p.1 < i + vs.length) := by
  induction vs generalizing m i with
  | nil => exact Or.inl h
  | cons v vs ih =>
    rw [List.length_cons]
    obtain hmem | hrange := ih h
    · obtain rfl | hmem := mem_storeCell hmem
      · exact Or.inr ⟨Nat.le_refl i, by omega⟩
      · exact Or.inl hmem
    · exact Or.inr (by omega)

theorem bounded_storeFrom (h : ∀ p ∈ m, p.1 < n) {vs : List α} (hlen : vs.length ≤ n) :
    ∀ p ∈ storeFrom m 0 vs, p.1 < n := by
  intro p hp
  obtain hp | hp := mem_storeFrom hp
  · exact h p hp
  · omega

theorem bounded_storeCell (h : ∀ p ∈ m, p.1 < n) {i : Nat} (hi : i < n) (v : α) : ∀ p ∈ storeCell m i v, p.1 < n := by
  intro p hp
  obtain rfl | hp := mem_storeCell hp
  · exact hi
  · exact h p hp

end Bounded

/-! ## The ranges -/

/-- The record, the capacities, the buffer memories and LEN_OUT are in their ranges. -/
def State.RangesOk (s : State) : Prop := s.RecordOk ∧ s.CapacitiesOk ∧ s.BuffersOk ∧ s.LenOutOk

/-- Everything that `RangesOk` speaks of. -/
def SameRanges (s t : State) : Prop :=
  t.result = s.result ∧ t.status = s.status ∧ t.cap = s.cap ∧ t.lenOut = s.lenOut ∧
  t.mem.pcmin = s.mem.pcmin ∧ t.mem.ilv = s.mem.ilv ∧ (∀ c, t.chCells c = s.chCells c) ∧ t.mem.pcmout = s.mem.pcmout

section RangesOk

variable {s t : State}

theorem SameRanges.rangesOk (hsame : SameRanges s t) (h : s.RangesOk) : t.RangesOk := by
  obtain ⟨hresult, hstatus, hcap, hlenOut, hpcmin, hilv, hch, hpcmout⟩ := hsame
  have hmaxf : t.maxf = s.maxf := by rw [State.maxf, hcap, State.maxf]
  have hnslot : t.nslot = s.nslot := by rw [State.nslot, hcap, State.nslot]
  simpa only [State.RangesOk, State.RecordOk, State.CapacitiesOk, State.BuffersOk, State.LenOutOk, hresult, hstatus,
    hlenOut, hpcmin, hilv, hch, hpcmout, hmaxf, hnslot] using h

theorem sameRanges_setChain (s : State) (c : Channel) (ch : Chain) : SameRanges s (s.setChain c ch) := by
  simp [SameRanges]

theorem sameRanges_clearChain (s : State) (c : Channel) : SameRanges s (s.clearChain c) := by
  refine ⟨by simp, by simp, by simp, by simp, ?_, ?_, by simp, ?_⟩
  all_goals cases c <;> rfl

theorem sameRanges_cfgCommit (s : State) (c : Channel) (k : Nat) (r : Slot) : SameRanges s (s.cfgCommit c k r) := by
  refine ⟨by simp, by simp, by simp, by simp, ?_, ?_, by simp, ?_⟩
  all_goals cases c <;> rfl

/-- Every code is 0 to 7, and its flag is one of the bits 0 to 6 of STATUS (10_state.md R14, R15). -/
theorem rangesOk_complete (h : s.RangesOk) (code : ResultCode) (w : Word) : (s.complete code w).RangesOk := by
  obtain ⟨⟨-, hstatus⟩, hcap, hbuffers, hlenOut⟩ := h
  have hword : code.word.toNat ≤ 7 := by cases code <;> decide
  have hflag : code.flag.toNat < 2 ^ 7 := by cases code <;> decide
  refine ⟨⟨by rwa [complete_result], ?_⟩, by simpa [State.CapacitiesOk] using hcap,
    by simpa [State.BuffersOk] using hbuffers, by simpa [State.LenOutOk] using hlenOut⟩
  rw [complete_status, BitVec.toNat_or]
  exact Nat.or_lt_two_pow hstatus hflag

/-! ## Writes within the capacities -/

theorem rangesOk_fillIlv (h : s.RangesOk) {len : Word} (hlen : len.toNat ≤ 2 * s.maxf) (f : Nat → F32) :
    (s.fillIlv f len).RangesOk := by
  obtain ⟨hrecord, hcap, ⟨hpcmin, hilv, hch, hpcmout⟩, hlenOut⟩ := h
  exact ⟨hrecord, hcap, ⟨hpcmin, bounded_storeFrom hilv (by simpa using hlen), hch, hpcmout⟩, hlenOut⟩

theorem rangesOk_fillPcmout (h : s.RangesOk) {len : Word} (hlen : len.toNat ≤ 2 * s.maxf) (f : Nat → Pcm16) :
    (s.fillPcmout f len).RangesOk := by
  obtain ⟨hrecord, hcap, ⟨hpcmin, hilv, hch, hpcmout⟩, -⟩ := h
  exact ⟨hrecord, hcap, ⟨hpcmin, hilv, hch, bounded_storeFrom hpcmout (by simpa using hlen)⟩, hlen⟩

theorem rangesOk_splitFrames (h : s.RangesOk) (hlen : s.lenIlv.toNat ≤ 2 * s.maxf) : s.splitFrames.RangesOk := by
  obtain ⟨hrecord, hcap, ⟨hpcmin, hilv, hch, hpcmout⟩, hlenOut⟩ := h
  refine ⟨hrecord, hcap, ⟨hpcmin, hilv, fun c => ?_, hpcmout⟩, hlenOut⟩
  cases c
  · exact bounded_storeFrom (hch .ch0) (by rw [elements_length]; omega)
  · exact bounded_storeFrom (hch .ch1) (by rw [elements_length]; omega)

theorem rangesOk_setChCells (h : s.RangesOk) (c : Channel) {m : Cells 32} (hm : ∀ p ∈ m, p.1 < s.maxf) :
    (s.setChCells c m).RangesOk := by
  obtain ⟨hrecord, hcap, ⟨hpcmin, hilv, hch, hpcmout⟩, hlenOut⟩ := h
  cases c
  · exact ⟨hrecord, hcap, ⟨hpcmin, hilv, fun c' => by cases c'; exacts [hm, hch .ch1], hpcmout⟩, hlenOut⟩
  · exact ⟨hrecord, hcap, ⟨hpcmin, hilv, fun c' => by cases c'; exacts [hch .ch0, hm], hpcmout⟩, hlenOut⟩

theorem rangesOk_applySlot (h : s.RangesOk) (c : Channel) {n : Nat} (hn : n ≤ s.maxf) (k : Nat) :
    (State.applySlot c n s k).RangesOk := by
  obtain ⟨-, -, ⟨-, -, hch, -⟩, -⟩ := id h
  have hstored := rangesOk_setChCells h c (bounded_storeFrom (hch c) (vs := (slotPass c n s k).1) (by simpa [slotPass]))
  refine SameRanges.rangesOk ?_ hstored
  refine ⟨by simp [applySlot_eq], by simp [applySlot_eq], by simp [applySlot_eq], by simp [applySlot_eq], ?_, ?_,
    by simp [applySlot_eq], ?_⟩
  all_goals cases c <;> rfl

/-- The passes of APPLY write below LEN_CHc, which the command has compared with MAXF. -/
theorem rangesOk_applyChain (h : s.RangesOk) {c : Channel} (hlen : (s.lenCh c).toNat ≤ s.maxf) :
    (s.applyChain c).RangesOk := by
  have hfold (n : Nat) (ks : List Nat) : ∀ s : State, n ≤ s.maxf → s.RangesOk →
      (ks.foldl (State.applySlot c n) s).RangesOk := by
    induction ks with
    | nil => exact fun _ _ h => h
    | cons k ks ih => exact fun s hn h => ih _ (by simpa [applySlot_eq] using hn) (rangesOk_applySlot h c hn k)
  exact hfold _ _ s hlen h

theorem rangesOk_hostWrite (h : s.RangesOk) (w : HostWrite) : (s.hostWrite w).RangesOk := by
  obtain ⟨hrecord, hcap, ⟨hpcmin, hilv, hch, hpcmout⟩, hlenOut⟩ := id h
  cases w with
  | reg i v =>
    simp only [State.hostWrite, State.writeReg]
    split <;> exact h
  | slot | pcmout => exact h
  | pcmin i v =>
    simp only [State.hostWrite]
    split
    case isTrue hi => exact ⟨hrecord, hcap, ⟨bounded_storeCell hpcmin hi v, hilv, hch, hpcmout⟩, hlenOut⟩
    case isFalse => exact h
  | ilv i v =>
    simp only [State.hostWrite]
    split
    case isTrue hi => exact ⟨hrecord, hcap, ⟨hpcmin, bounded_storeCell hilv hi v, hch, hpcmout⟩, hlenOut⟩
    case isFalse => exact h
  | ch c i v =>
    simp only [State.hostWrite]
    split
    case isTrue hi => exact rangesOk_setChCells h c (bounded_storeCell (hch c) hi v)
    case isFalse => exact h

/-! ## Resets -/

theorem rangesOk_warmReset (h : s.RangesOk) : s.warmReset.RangesOk := by
  obtain ⟨-, hcap, ⟨hpcmin, hilv, hch, hpcmout⟩, -⟩ := h
  refine ⟨⟨by simp [State.warmReset], by simp [State.warmReset]⟩, hcap, ⟨hpcmin, hilv, fun c => ?_, hpcmout⟩,
    by simp [State.LenOutOk, State.warmReset]⟩
  simpa using hch c

theorem buffersOk_of_unwritten (h : s.mem = Memory.unwritten) : s.BuffersOk := by
  have hch (c : Channel) : s.chCells c = [] := by
    cases c
    · exact congrArg Memory.ch0 h
    · exact congrArg Memory.ch1 h
  simp [State.BuffersOk, hch, h, Memory.unwritten]

theorem rangesOk_powerUpReset (h : s.RangesOk) : s.powerUpReset.RangesOk := by
  obtain ⟨hrecord, hcap, -, hlenOut⟩ := rangesOk_warmReset h
  exact ⟨hrecord, hcap, buffersOk_of_unwritten rfl, hlenOut⟩

theorem rangesOk_scramble (h : s.RangesOk) (b : Buffer) : (s.scramble b).RangesOk := by
  obtain ⟨hrecord, hcap, ⟨hpcmin, hilv, hch, hpcmout⟩, hlenOut⟩ := id h
  cases b with
  | pcmin => exact h
  | ilv =>
    exact ⟨hrecord, hcap, ⟨hpcmin, bounded_storeFrom hilv (Nat.le_of_eq (elements_length _ _)), hch, hpcmout⟩, hlenOut⟩
  | ch0 => exact rangesOk_setChCells h .ch0 (bounded_storeFrom (hch .ch0) (Nat.le_of_eq (elements_length _ _)))
  | ch1 => exact rangesOk_setChCells h .ch1 (bounded_storeFrom (hch .ch1) (Nat.le_of_eq (elements_length _ _)))
  | pcmout =>
    exact ⟨hrecord, hcap, ⟨hpcmin, hilv, hch, bounded_storeFrom hpcmout (Nat.le_of_eq (elements_length _ _))⟩, hlenOut⟩

end RangesOk

/-! ## Everything a step is made of -/

theorem effect_rangesOk {s u : State} {i : Instr} (h : s.RangesOk) (heffect : Effect s i u) : u.RangesOk := by
  cases heffect with
  | nothing => exact h
  | clearRecord =>
    obtain ⟨⟨hresult, -⟩, hrest⟩ := h
    exact ⟨⟨hresult, by simp⟩, hrest⟩
  | reset => exact rangesOk_warmReset h
  | decode hlen => exact rangesOk_fillIlv h hlen _
  | encode hlen => exact rangesOk_fillPcmout h hlen _
  | split hlen => exact rangesOk_splitFrames h hlen
  | merge hlen => exact rangesOk_fillIlv h (by rw [toNat_ofNat_double hlen]; omega) _
  | clear c => exact (sameRanges_clearChain s c).rangesOk h
  | activate c => exact (sameRanges_setChain s c _).rangesOk h
  | apply c hlen => exact rangesOk_applyChain h hlen
  | fail => exact (sameRanges_setChain s _ _).rangesOk h
  | build => exact (sameRanges_cfgCommit s _ _ _).rangesOk h

theorem kept_rangesOk : Kept State.RangesOk where
  inbox _ _ h := h
  answer _ _ h := h
  write _ w h := rangesOk_hostWrite h w
  effect _ _ _ h heffect := effect_rangesOk h heffect
  complete _ code w h := rangesOk_complete h code w
  reset _ h := rangesOk_warmReset h
  powerUp _ h := rangesOk_powerUpReset h
  abandon s i h := by
    have hreset := rangesOk_warmReset
      (foldl_scramble_keeps (P := State.RangesOk) (fun _ b hs => rangesOk_scramble hs b) (s.buffersWritten i) h)
    exact hreset

/-- Settles O56. Every write is below a length or an index that was compared with the capacity, and only completions and
resets write the record. -/
theorem stepKeepsRanges : Obligations.StepKeepsRanges := fun _ _ h hstep => kept_rangesOk.step h hstep

/-! ## From reset -/

/-- Settles O15: nothing is listed in any memory, both chains are initial, and the capacities are 8 and 4096. -/
theorem resetStateIsLegal : Obligations.ResetStateIsLegal where
  memory := reset_memory_wf
  record := ⟨by decide, by decide⟩
  capacities := ⟨by decide, by decide⟩
  buffers := buffersOk_of_unwritten rfl
  lenOut := Nat.zero_le _
  chains c := chainOk_of_initial (by cases c <;> rfl) (by cases c <;> rfl)

theorem legal_of_step {s t : State} (h : s.Legal) (hstep : step s = .next t) : t.Legal := by
  obtain ⟨hrecord, hcap, hbuffers, hlenOut⟩ :=
    stepKeepsRanges s t ⟨h.record, h.capacities, h.buffers, h.lenOut⟩ hstep
  exact ⟨stepKeepsMemoryForm s t h.memory hstep, hrecord, hcap, hbuffers, hlenOut,
    stepKeepsChainsLegal s t h.chains hstep⟩

theorem safeRun_of_legal (n : Nat) {s : State} (h : s.Legal) : SafeRun n s := by
  induction n generalizing s with
  | zero => exact h
  | succ n ih =>
    obtain ⟨t, hstep⟩ := step_answers s
    exact ⟨h, t, hstep, ih (legal_of_step h hstep)⟩

/-- The host's list is no part of what makes a state legal. -/
theorem legal_withInbox {s : State} (h : s.Legal) (actions : List HostAction) :
    State.Legal { s with inbox := actions } :=
  ⟨h.memory, h.record, h.capacities, h.buffers, h.lenOut, kept_chainOk.inbox s actions h.chains⟩

/-- Settles O57: the state after reset is legal whatever the host's list, every step answers, and a step from a legal state
leads to a legal one. -/
theorem runsFromResetAreSafe : Obligations.RunsFromResetAreSafe :=
  fun actions n => safeRun_of_legal n (legal_withInbox resetStateIsLegal actions)

end Machine
end Sys2Proof
end

section
/-! The frames of all commands (10_state.md R13, R17, R30), the resets of every cause (70_reset_and_hazards.md R240, R241)
and the table of the reset state (10_state.md R32), and what a HostRead returns (20_memory.md R45). -/

namespace Sys2Proof
namespace Machine

/-! ## Who writes what -/

/-- What command `i` leaves alone, memory by memory and register by register. -/
def OnlyWritersWrite (i : Instr) (s t : State) : Prop :=
  SameSurroundings s t ∧ SamePcmin s t ∧
  (i ≠ .decode → i ≠ .merge → SameIlv s t) ∧
  (∀ c, i ≠ .split → i ≠ .apply c → SameCh c s t) ∧
  (i ≠ .encode → SamePcmout s t) ∧
  (i ≠ .srst → t.lenIn = s.lenIn) ∧
  (i ≠ .srst → i ≠ .decode → i ≠ .merge → t.lenIlv = s.lenIlv) ∧
  (∀ c, i ≠ .srst → i ≠ .split → t.lenCh c = s.lenCh c) ∧
  (i ≠ .srst → i ≠ .encode → t.lenOut = s.lenOut) ∧
  (∀ c, i ≠ .srst → namedChannel i ≠ some c → SameChain c s t)

section Writers

variable {i : Instr} {c : Channel} {s t u : State}

theorem onlyWritersWrite_complete (h : OnlyWritersWrite i s u) (code : ResultCode) (w : Word) :
    OnlyWritersWrite i s (u.complete code w) := by
  simpa [OnlyWritersWrite] using h

theorem SameButRecord.onlyWritersWrite (h : SameButRecord s t) : OnlyWritersWrite i s t := by
  obtain ⟨hsur, ⟨hlenIn, hlenIlv, hlenCh, hlenOut⟩, ⟨hpcmin, hilv, hch, hpcmout⟩, hchain⟩ := h
  exact ⟨hsur, hpcmin, fun _ _ => hilv, fun c _ _ => hch c, fun _ => hpcmout, fun _ => hlenIn, fun _ _ _ => hlenIlv,
    fun c _ _ => hlenCh c, fun _ _ => hlenOut, fun c _ _ => hchain c⟩

theorem eq_other_of_ne {c c' : Channel} (h : c' ≠ c) : c' = c.other := (eq_or_eq_other c c').resolve_left h

/-- A command that touches nothing but the chain of the channel it names. -/
theorem SameOutsideChain.onlyWritersWrite (h : SameOutsideChain c s t) (hc : namedChannel i = some c) :
    OnlyWritersWrite i s t := by
  obtain ⟨hsur, ⟨hlenIn, hlenIlv, hlenCh, hlenOut⟩, ⟨hpcmin, hilv, hch, hpcmout⟩, hchain⟩ := h
  refine ⟨hsur, hpcmin, fun _ _ => hilv, fun c _ _ => hch c, fun _ => hpcmout, fun _ => hlenIn, fun _ _ _ => hlenIlv,
    fun c _ _ => hlenCh c, fun _ _ => hlenOut, fun c' _ hne => ?_⟩
  obtain rfl := eq_other_of_ne fun heq : c' = c => hne (heq ▸ hc)
  exact hchain

theorem SameOutsideFilters.onlyWritersWrite (h : SameOutsideFilters c s t) : OnlyWritersWrite (.apply c) s t := by
  obtain ⟨hsur, ⟨hlenIn, hlenIlv, hlenCh, hlenOut⟩, hpcmin, hilv, hpcmout, hch, hchain, -, -⟩ := h
  refine ⟨hsur, hpcmin, fun _ _ => hilv, fun c' _ hne => ?_, fun _ => hpcmout, fun _ => hlenIn, fun _ _ _ => hlenIlv,
    fun c _ _ => hlenCh c, fun _ _ => hlenOut, fun c' _ hne => ?_⟩
  · obtain rfl := eq_other_of_ne fun heq : c' = c => hne (congrArg Instr.apply heq.symm)
    exact hch
  · obtain rfl := eq_other_of_ne fun heq : c' = c => hne (congrArg some heq.symm)
    exact hchain

theorem namedChannel_of_configured (hc : configuredChannel i = some c) : namedChannel i = some c := by
  cases i
  case chClear | chAct | apply => cases hc
  all_goals exact hc

theorem fillIlv_onlyWritersWrite (hi : i = .decode ∨ i = .merge) (f : Nat → F32) (len : Word) :
    OnlyWritersWrite i s (s.fillIlv f len) := by
  obtain ⟨hsur, hpcmin, hch, hpcmout, hchain⟩ := fillIlv_frame s f len
  exact ⟨hsur, hpcmin, fun hdecode hmerge => absurd hi (not_or.mpr ⟨hdecode, hmerge⟩), fun c _ _ => hch c,
    fun _ => hpcmout, fun _ => rfl, fun _ hdecode hmerge => absurd hi (not_or.mpr ⟨hdecode, hmerge⟩), fun _ _ _ => rfl,
    fun _ _ => rfl, fun c _ _ => hchain c⟩

theorem fillPcmout_onlyWritersWrite (f : Nat → Pcm16) (len : Word) :
    OnlyWritersWrite .encode s (s.fillPcmout f len) := by
  obtain ⟨hsur, hpcmin, hilv, hch, hchain⟩ := fillPcmout_frame s f len
  exact ⟨hsur, hpcmin, fun _ _ => hilv, fun c _ _ => hch c, fun hne => absurd rfl hne, fun _ => rfl, fun _ _ _ => rfl,
    fun _ _ _ => rfl, fun _ hne => absurd rfl hne, fun c _ _ => hchain c⟩

theorem splitFrames_onlyWritersWrite : OnlyWritersWrite .split s s.splitFrames := by
  obtain ⟨hsur, hpcmin, hilv, hpcmout, hchain⟩ := splitFrames_frame s
  exact ⟨hsur, hpcmin, fun _ _ => hilv, fun _ hne => absurd rfl hne, fun _ => hpcmout, fun _ => rfl, fun _ _ _ => rfl,
    fun _ _ hne => absurd rfl hne, fun _ _ => rfl, fun c _ _ => hchain c⟩

theorem warmReset_onlyWritersWrite : OnlyWritersWrite .srst s s.warmReset := by
  obtain ⟨hpcmin, hilv, hch, hpcmout⟩ := sameBuffers_warmReset s
  exact ⟨sameSurroundings_warmReset s, hpcmin, fun _ _ => hilv, fun c _ _ => hch c, fun _ => hpcmout,
    fun hne => absurd rfl hne, fun hne => absurd rfl hne, fun _ hne => absurd rfl hne, fun hne => absurd rfl hne,
    fun _ hne => absurd rfl hne⟩

theorem effect_onlyWritersWrite (heffect : Effect s i u) : OnlyWritersWrite i s u := by
  cases heffect with
  | nothing => exact (sameButRecord_refl s).onlyWritersWrite
  | clearRecord => exact (sameButRecord_clearRecord s).onlyWritersWrite
  | reset => exact warmReset_onlyWritersWrite
  | decode => exact fillIlv_onlyWritersWrite (Or.inl rfl) _ _
  | encode => exact fillPcmout_onlyWritersWrite _ _
  | split => exact splitFrames_onlyWritersWrite
  | merge => exact fillIlv_onlyWritersWrite (Or.inr rfl) _ _
  | clear c => exact (sameOutsideChain_clearChain s c).onlyWritersWrite rfl
  | activate c => exact (sameOutsideChain_setChain s c _).onlyWritersWrite rfl
  | apply c => exact (sameOutsideFilters_applyChain s c).onlyWritersWrite
  | fail hc => exact (sameOutsideChain_setChain s _ _).onlyWritersWrite (namedChannel_of_configured hc)
  | build hc => exact (sameOutsideChain_cfgCommit s _ _ _).onlyWritersWrite (namedChannel_of_configured hc)

end Writers

/-- Settles O52, effect by effect. -/
theorem eachMemoryHasItsWriters : Obligations.EachMemoryHasItsWriters := by
  intro i s t hexec
  obtain ⟨code, u, hexec', heffect⟩ := exec_hasEffect i s
  obtain rfl := Host.Outcome.next.inj (hexec'.symm.trans hexec)
  exact onlyWritersWrite_complete (effect_onlyWritersWrite heffect) code _

/-! ## A reset that cuts a command short -/

section Scramble

variable (s : State)

/-- What one buffer memory filled with unspecified contents leaves alone. -/
theorem scramble_frame (b : Buffer) :
    (s.scramble b).cap = s.cap ∧ (s.scramble b).inbox = s.inbox ∧ SamePcmin s (s.scramble b) ∧
      (b ≠ .ilv → SameIlv s (s.scramble b)) ∧ (∀ c, b ≠ chBuffer c → SameCh c s (s.scramble b)) ∧
      (b ≠ .pcmout → SamePcmout s (s.scramble b)) := by
  cases b with
  | pcmin => exact ⟨rfl, rfl, fun _ => rfl, fun _ _ => rfl, fun _ _ _ => rfl, fun _ _ => rfl⟩
  | ilv => exact ⟨rfl, rfl, fun _ => rfl, fun h => absurd rfl h, fun _ _ _ => rfl, fun _ _ => rfl⟩
  | ch0 =>
    refine ⟨rfl, rfl, fun _ => rfl, fun _ _ => rfl, fun c h => ?_, fun _ _ => rfl⟩
    cases c
    · exact absurd rfl h
    · exact fun _ => rfl
  | ch1 =>
    refine ⟨rfl, rfl, fun _ => rfl, fun _ _ => rfl, fun c h => ?_, fun _ _ => rfl⟩
    cases c
    · exact fun _ => rfl
    · exact absurd rfl h
  | pcmout => exact ⟨rfl, rfl, fun _ => rfl, fun _ _ => rfl, fun _ _ _ => rfl, fun h => absurd rfl h⟩

theorem foldl_scramble_frame (bs : List Buffer) :
    (bs.foldl State.scramble s).cap = s.cap ∧ (bs.foldl State.scramble s).inbox = s.inbox ∧
      SamePcmin s (bs.foldl State.scramble s) ∧ (.ilv ∉ bs → SameIlv s (bs.foldl State.scramble s)) ∧
      (∀ c, chBuffer c ∉ bs → SameCh c s (bs.foldl State.scramble s)) ∧
      (.pcmout ∉ bs → SamePcmout s (bs.foldl State.scramble s)) := by
  induction bs generalizing s with
  | nil => exact ⟨rfl, rfl, fun _ => rfl, fun _ _ => rfl, fun _ _ _ => rfl, fun _ _ => rfl⟩
  | cons b bs ih =>
    obtain ⟨hcap, hinbox, hpcmin, hilv, hch, hpcmout⟩ := scramble_frame s b
    obtain ⟨hcap', hinbox', hpcmin', hilv', hch', hpcmout'⟩ := ih (s.scramble b)
    simp only [List.mem_cons, not_or]
    exact ⟨hcap'.trans hcap, hinbox'.trans hinbox, fun i => (hpcmin' i).trans (hpcmin i),
      fun ⟨hb, hbs⟩ i => (hilv' hbs i).trans (hilv (Ne.symm hb) i),
      fun c ⟨hb, hbs⟩ i => (hch' c hbs i).trans (hch c (Ne.symm hb) i),
      fun ⟨hb, hbs⟩ i => (hpcmout' hbs i).trans (hpcmout (Ne.symm hb) i)⟩

variable {s} {i : Instr}

theorem chBuffer_injective : Function.Injective chBuffer := by
  intro c c' h
  cases c <;> cases c' <;> simp_all [chBuffer]

/-- A command writes the buffer memories that are its to write (10_state.md R30). -/
theorem writer_of_mem_buffersWritten {b : Buffer} (h : b ∈ s.buffersWritten i) :
    (b = .ilv → i = .decode ∨ i = .merge) ∧ (∀ c, b = chBuffer c → i = .split ∨ i = .apply c) ∧
      (b = .pcmout → i = .encode) := by
  cases i
  case decode | encode | merge =>
    simp only [State.buffersWritten] at h
    split at h
    · cases h
    · obtain ⟨-, rfl⟩ := mem_writing.mp h
      exact ⟨by simp, fun c => by cases c <;> simp [chBuffer], by simp⟩
  case split =>
    simp only [State.buffersWritten] at h
    split at h
    · cases h
    · obtain ⟨-, rfl⟩ | ⟨-, rfl⟩ := (List.mem_append.mp h).imp mem_writing.mp mem_writing.mp
      all_goals exact ⟨by simp, fun c _ => Or.inl rfl, by simp⟩
  case apply c =>
    simp only [State.buffersWritten] at h
    split at h
    · cases h
    · obtain ⟨-, rfl⟩ := mem_writing.mp h
      exact ⟨by cases c <;> simp [chBuffer], fun c' heq => Or.inr (congrArg Instr.apply (chBuffer_injective heq)),
        by cases c <;> simp [chBuffer]⟩
  all_goals cases h

/-- The host's list plays no part in what a command is writing. -/
theorem buffersWritten_withInbox (s : State) (i : Instr) (l : List HostAction) :
    State.buffersWritten { s with inbox := l } i = s.buffersWritten i := by
  cases i
  case apply c => cases c <;> rfl
  all_goals rfl

end Scramble

theorem abandon_resets (s : State) (i : Instr) :
    ResetRegisters (s.abandon i) ∧ (s.abandon i).cap = s.cap ∧ (s.abandon i).inbox = s.inbox ∧
      SamePcmin s (s.abandon i) ∧ (i ≠ .decode → i ≠ .merge → SameIlv s (s.abandon i)) ∧
      (∀ c, i ≠ .split → i ≠ .apply c → SameCh c s (s.abandon i)) ∧ (i ≠ .encode → SamePcmout s (s.abandon i)) ∧
      (s.buffersWritten i = [] → SameBuffers s (s.abandon i)) := by
  have hregisters := resetRegisters_warmReset ((s.buffersWritten i).foldl State.scramble s)
  obtain ⟨hcap, hinbox, hpcmin, hilv, hch, hpcmout⟩ := foldl_scramble_frame s (s.buffersWritten i)
  refine ⟨hregisters, hcap, hinbox, hpcmin, fun hdecode hmerge => ?ilv, fun c hsplit happly => ?ch,
    fun hencode => ?pcmout, fun hnone => ?none⟩
  case ilv =>
    refine hilv fun hmem => ?_
    obtain ⟨hwriter, -, -⟩ := writer_of_mem_buffersWritten hmem
    exact (hwriter rfl).elim hdecode hmerge
  case ch =>
    have hkept : SameCh c s ((s.buffersWritten i).foldl State.scramble s) := by
      refine hch c fun hmem => ?_
      obtain ⟨-, hwriter, -⟩ := writer_of_mem_buffersWritten hmem
      exact (hwriter c rfl).elim hsplit happly
    cases c <;> exact hkept
  case pcmout =>
    refine hpcmout fun hmem => ?_
    obtain ⟨-, -, hwriter⟩ := writer_of_mem_buffersWritten hmem
    exact hencode (hwriter rfl)
  case none =>
    refine ⟨hpcmin, hilv (by simp [hnone]), fun c => ?_, hpcmout (by simp [hnone])⟩
    have hkept := hch c (by simp [hnone])
    cases c <;> exact hkept

/-! ## The causes of a reset (70_reset_and_hazards.md R240, R241) -/

/-- Settles O16: the causes share `warmReset`; what they do to the buffer memories before or after it is the difference. -/
theorem resetCausesAgree : Obligations.ResetCausesAgree := by
  intro s rest
  refine ⟨fun h => ?external, fun h => ?powerUp, fun h => ?srst, fun w operands i h hdecode => ?cutShort,
    fun w operands r h hdecode => ?illegal⟩
  case external =>
    exact ⟨_, step_of_inbox_cons h, resetRegisters_warmReset _, sameBuffers_warmReset { s with inbox := rest }, rfl, rfl⟩
  case powerUp =>
    exact ⟨_, step_of_inbox_cons h, resetRegisters_warmReset s, rfl, rfl, fun i => ⟨rfl, rfl, rfl, rfl, rfl⟩⟩
  case srst =>
    have hstep : step s = exec .srst { s with inbox := rest } := step_of_inbox_cons h
    rw [exec_srst] at hstep
    exact ⟨_, hstep, (resetRegisters_warmReset _).complete_ok _,
      sameBuffers_complete.mpr (sameBuffers_warmReset { s with inbox := rest }), rfl, rfl⟩
  case cutShort =>
    have hstep : step s = .next (State.abandon { s with inbox := rest } i) := by
      rw [step_of_inbox_cons h, serve, cutShort, hdecode]
    obtain ⟨hregisters, hcap, hinbox, hpcmin, hilv, hch, hpcmout, hnone⟩ := abandon_resets { s with inbox := rest } i
    refine ⟨_, hstep, hregisters, hcap, hinbox, hpcmin, hilv, hch, hpcmout, fun hcode => hnone ?_⟩
    rw [buffersWritten_withInbox, buffersWritten_of_error s i hcode]
  case illegal =>
    have hstep : step s = .next (State.warmReset { s with inbox := rest }) := by
      rw [step_of_inbox_cons h, serve, cutShort, hdecode]
    exact ⟨_, hstep, resetRegisters_warmReset _, sameBuffers_warmReset { s with inbox := rest }, rfl, rfl⟩

/-- Settles O14: the state after reset is its own `warmReset`, with nothing listed in any memory. -/
theorem resetStateIsTheTable : Obligations.ResetStateIsTheTable :=
  ⟨resetRegisters_warmReset State.reset, rfl, fun _ => ⟨rfl, rfl, rfl, rfl, rfl⟩⟩

/-! ## HostRead in range (20_memory.md R45) -/

section HostRead

variable {s : State}

/-- The numbers f = 0 to 18 name the fields in the order of the record (10_state.md R22). -/
theorem map_field_eq_slotRecord (r : Slot) : (List.range 19).map r.field = slotRecord r := rfl

theorem hostRead_slots {k : Nat} (h : k < s.nslot.toNat) :
    (List.range 19).map (fun f => s.hostRead (.slot 0 k f)) = (slotRecord (s.slot .ch0 k)).map .dword ∧
      (List.range 19).map (fun f => s.hostRead (.slot 1 k f)) = (slotRecord (s.slot .ch1 k)).map .dword := by
  have hread (c : Nat) (r : Slot) (hslot : ∀ f, s.readSlot c k f = r.field f) :
      (List.range 19).map (fun f => s.hostRead (.slot c k f)) = (slotRecord r).map .dword := by
    rw [← map_field_eq_slotRecord, List.map_map]
    exact List.map_congr_left fun f _ => congrArg HostValue.dword (hslot f)
  exact ⟨hread 0 _ fun _ => if_neg (Nat.not_le.mpr h), hread 1 _ fun _ => if_neg (Nat.not_le.mpr h)⟩

theorem word_of_phase {ch : Chain} {p : ChainPhase} (h : ch.phase = p) : ch.word = 0#16 ++ ch.nfilt ++ 0#6 ++ p.code := by
  rw [Chain.word, h]

end HostRead

/-- Settles O10: each space by its arm, the registers by their numbers, CHAINc by its STATE. -/
theorem hostReadReturnsTheElement : Obligations.HostReadReturnsTheElement := by
  refine ⟨fun s a rest h => step_of_inbox_cons h, fun s => ⟨fun i h => ?pcmin, fun i h => ?ilv, fun c i h => ?ch,
    fun i h => ?pcmout, fun k h => hostRead_slots h, rfl, rfl, rfl, rfl, rfl, rfl, rfl, rfl, rfl, rfl,
    fun h => ?opened0, fun h => ?active0, fun h => ?failed0, fun h => ?opened1, fun h => ?active1, fun h => ?failed1⟩⟩
  case pcmin | pcmout => exact congrArg HostValue.half (if_pos h)
  case ilv | ch => exact congrArg HostValue.word (if_pos h)
  all_goals exact congrArg HostValue.word (word_of_phase h)

end Machine
end Sys2Proof
end

section
/-! What commands do not read: the other channel (10_state.md section 4, 43_filter_chain.md section 1) and the record
(10_state.md R14, 60_exceptions.md R221). Both are about one command at two states, the second got from the first by
changing what is not read (`Unread`, `RunsAlike`). -/

namespace Sys2Proof
namespace Machine

/-! ## A change to what a command does not read -/

/-- The change `g` touches nothing that a command for channel `c` reads, and commutes with all that such a command does. -/
structure Unread (g : State → State) (c : Channel) : Prop where
  chain : ∀ s, (g s).chain c = s.chain c
  nslot : ∀ s, (g s).nslot = s.nslot
  maxf : ∀ s, (g s).maxf = s.maxf
  lenCh : ∀ s, (g s).lenCh c = s.lenCh c
  freeTick : ∀ s, (g s).freeTick = s.freeTick
  setChain : ∀ s ch, (g s).setChain c ch = g (s.setChain c ch)
  clearChain : ∀ s, (g s).clearChain c = g (s.clearChain c)
  cfgCommit : ∀ s k r, (g s).cfgCommit c k r = g (s.cfgCommit c k r)
  applySlot : ∀ s n k, State.applySlot c n (g s) k = g (State.applySlot c n s k)

/-- The command completes at `s` and at `g s` with one code, and what it has done by then differs by `g` alone. -/
def RunsAlike (g : State → State) (i : Instr) (s : State) : Prop :=
  ∃ code u, exec i s = .next (u.complete code i.word0) ∧ exec i (g s) = .next ((g u).complete code i.word0)

section RunsAlike

variable {g : State → State} {c : Channel} {i : Instr}

theorem Unread.failChain (hg : Unread g c) (s : State) : (g s).failChain c = g (s.failChain c) := by
  rw [State.failChain, hg.chain, hg.setChain, State.failChain]

theorem Unread.applyChain (hg : Unread g c) (s : State) : (g s).applyChain c = g (s.applyChain c) := by
  rw [State.applyChain, hg.chain, hg.lenCh, State.applyChain]
  exact List.foldl_hom g (fun s k => hg.applySlot s _ k)

theorem runsAlike_chClear (hg : Unread g c) (s : State) : RunsAlike g (.chClear c) s :=
  ⟨.ok, s.clearChain c, rfl, congrArg (fun u => Host.Outcome.next (State.complete u .ok (Instr.chClear c).word0))
    (hg.clearChain s)⟩

theorem runsAlike_chAct (hg : Unread g c) (s : State) : RunsAlike g (.chAct c) s := by
  have hphase : ((g s).chain c).phase = (s.chain c).phase := by rw [hg.chain]
  by_cases h : (s.chain c).phase = .failed
  case pos => exact ⟨.chainState, s, if_pos h, if_pos (hphase.trans h)⟩
  case neg =>
    refine ⟨.ok, s.setChain c { s.chain c with phase := .active }, if_neg h, ?_⟩
    rw [← hg.setChain, ← hg.chain]
    exact if_neg (hphase ▸ h)

theorem runsAlike_apply (hg : Unread g c) (s : State) : RunsAlike g (.apply c) s := by
  have hphase : ((g s).chain c).phase = (s.chain c).phase := by rw [hg.chain]
  have hlong : (g s).maxf < ((g s).lenCh c).toNat ↔ s.maxf < (s.lenCh c).toNat := by rw [hg.maxf, hg.lenCh]
  by_cases h : (s.chain c).phase ≠ .active
  case pos => exact ⟨.chainState, s, if_pos h, if_pos (hphase ▸ h)⟩
  case neg =>
    by_cases hlt : s.maxf < (s.lenCh c).toNat
    case pos =>
      exact ⟨.badLength, s, (if_neg h).trans (if_pos hlt), (if_neg (hphase ▸ h)).trans (if_pos (hlong.mpr hlt))⟩
    case neg =>
      refine ⟨.ok, s.applyChain c, (if_neg h).trans (if_neg hlt), ?_⟩
      rw [← hg.applyChain]
      exact (if_neg (hphase ▸ h)).trans (if_neg fun hlt' => hlt (hlong.mp hlt'))

/-- What the own part of a CFG command does with slot `k`: it fails the chain, or it commits a slot. -/
def BuildsAlike (g : State → State) (c : Channel) (s : State) (w : Word) (build : State → Nat → State) (k : Nat) : Prop :=
  (build s k = s.cfgFail c w ∧ build (g s) k = (g s).cfgFail c w) ∨
  ∃ code r, build s k = (s.cfgCommit c k r).complete code w ∧ build (g s) k = ((g s).cfgCommit c k r).complete code w

theorem runsAlike_of_cfgBegin (hg : Unread g c) {s : State} {build : State → Nat → State}
    (hexec : ∀ s, exec i s = .next (s.cfgBegin c i.word0 (build s)))
    (hbuild : ∀ k, BuildsAlike g c s i.word0 build k) : RunsAlike g i s := by
  have hphase : ((g s).chain c).phase = (s.chain c).phase := by rw [hg.chain]
  have hnfilt : ((g s).chain c).nfilt = (s.chain c).nfilt := by rw [hg.chain]
  obtain ⟨hne, hbegin⟩ | ⟨hopen, hfull, hbegin⟩ | ⟨hopen, hfree, hbegin⟩ := cfgBegin_cases s c i.word0 (build s)
  case inl =>
    refine ⟨.chainState, s, by rw [hexec, hbegin], ?_⟩
    rw [hexec, cfgBegin_of_not_opened _ _ (hphase ▸ hne)]
  case inr.inl =>
    refine ⟨.chainFull, s.failChain c, by rw [hexec, hbegin], ?_⟩
    rw [hexec, cfgBegin_of_full _ _ (hphase ▸ hopen) (by rw [hnfilt, hg.nslot, hfull]), hg.failChain]
  case inr.inr =>
    have hbegin' := cfgBegin_open (g s) i.word0 (build (g s)) (hphase ▸ hopen) (by rwa [hnfilt, hg.nslot])
    rw [hnfilt] at hbegin'
    obtain ⟨hfail, hfail'⟩ | ⟨code, r, hcommit, hcommit'⟩ := hbuild (s.chain c).nfilt.toNat
    · refine ⟨.invalidParameter, s.failChain c, by rw [hexec, hbegin, hfail, State.cfgFail], ?_⟩
      rw [hexec, hbegin', hfail', State.cfgFail, hg.failChain]
    · refine ⟨code, s.cfgCommit c (s.chain c).nfilt.toNat r, by rw [hexec, hbegin, hcommit], ?_⟩
      rw [hexec, hbegin', hcommit', hg.cfgCommit]

variable (s : State)

theorem buildsAlike_buildDelay (n k : Nat) (w : Word) :
    BuildsAlike g c s w (fun s k => s.buildDelay c k n w) k :=
  Or.inr ⟨_, _, rfl, rfl⟩

theorem runsAlike_cfgDlyt (hg : Unread g c) (taps : Word) : RunsAlike g (.cfgDlyt c taps) s :=
  runsAlike_of_cfgBegin hg (build := fun s k => s.buildDelay c k taps.toNat _) (fun _ => rfl)
    fun k => buildsAlike_buildDelay s taps.toNat k _

theorem runsAlike_cfgDlym (hg : Unread g c) (delayMs sampleRate : Word) :
    RunsAlike g (.cfgDlym c delayMs sampleRate) s := by
  refine runsAlike_of_cfgBegin hg (build := fun s k =>
    if sampleRate = 0#32 then s.cfgFail c _ else s.buildDelay c k (tapsOfDelay delayMs sampleRate) _)
    (fun _ => rfl) fun k => ?_
  by_cases h : sampleRate = 0#32
  case pos => exact Or.inl ⟨if_pos h, if_pos h⟩
  case neg => exact Or.inr ⟨_, _, if_neg h, if_neg h⟩

theorem runsAlike_cfgVol (hg : Unread g c) (curve : Curve) (gain : F32) : RunsAlike g (.cfgVol c curve gain) s := by
  refine runsAlike_of_cfgBegin hg (build := fun s k =>
    if curve ≠ .linear then s.cfgFail c _ else (s.cfgCommit c k (volumeSlot gain)).complete .ok _)
    (fun _ => rfl) fun k => ?_
  by_cases h : curve ≠ .linear
  case pos => exact Or.inl ⟨if_pos h, if_pos h⟩
  case neg => exact Or.inr ⟨_, _, if_neg h, if_neg h⟩

end RunsAlike

/-- The formula set of a response type (46_biquad_coefficients.md R164 to R171). -/
def ResponseType.rawFormulas : ResponseType → (Nat → BitVec 64) → BiquadTerms → RawCoefficients
  | .lowPass => lowPassRaw
  | .highPass => highPassRaw
  | .bandPass => bandPassRaw
  | .notch => notchRaw
  | .audioPeak => audioPeakRaw
  | .peakingEq => peakingEqRaw
  | .lowShelf => lowShelfRaw
  | .highShelf => highShelfRaw

theorem exec_biquadInstr_eq (type : ResponseType) (c : Channel) (pkind : ParamKind) (ops : BiquadOperands) (s : State) :
    exec (biquadInstr type c pkind ops) s =
      .next (s.configureBiquad type type.rawFormulas c pkind ops (biquadInstr type c pkind ops).word0) := by
  cases type <;> rfl

section RunsAlike

variable {g : State → State} {c : Channel} {i : Instr}

/-- The free values of a CFG.BQ command come from the model's counter alone. -/
theorem runsAlike_biquadInstr (hg : Unread g c) (type : ResponseType) (pkind : ParamKind) (ops : BiquadOperands)
    (s : State) : RunsAlike g (biquadInstr type c pkind ops) s := by
  refine runsAlike_of_cfgBegin hg (build := fun s k =>
    if biquadOperandsValid type pkind ops then
      (s.cfgCommit c k (biquadSlot s.configFree type pkind
        (type.rawFormulas s.configFree (biquadTerms s.configFree pkind ops)))).complete .ok _
    else s.cfgFail c _) (exec_biquadInstr_eq type c pkind ops) fun k => ?_
  have hfree : (g s).configFree = s.configFree := by rw [State.configFree, hg.freeTick, State.configFree]
  by_cases h : biquadOperandsValid type pkind ops = true
  case pos =>
    refine Or.inr ⟨_, _, if_pos h, ?_⟩
    rw [← hfree]
    exact if_pos h
  case neg => exact Or.inl ⟨if_neg h, if_neg h⟩

/-- Every command that names channel `c`. -/
theorem runsAlike_of_named (hg : Unread g c) (hc : namedChannel i = some c) (s : State) : RunsAlike g i s := by
  cases i
  case nop | clrst | srst | decode | encode | split | merge => cases hc
  all_goals obtain rfl := Option.some.inj hc
  case chClear => exact runsAlike_chClear hg s
  case chAct => exact runsAlike_chAct hg s
  case apply => exact runsAlike_apply hg s
  case cfgDlyt taps => exact runsAlike_cfgDlyt s hg taps
  case cfgDlym delayMs sampleRate => exact runsAlike_cfgDlym s hg delayMs sampleRate
  case cfgVol curve gain => exact runsAlike_cfgVol s hg curve gain
  case cfgBqLp pkind ops => exact runsAlike_biquadInstr hg .lowPass pkind ops s
  case cfgBqHp pkind ops => exact runsAlike_biquadInstr hg .highPass pkind ops s
  case cfgBqBp pkind ops => exact runsAlike_biquadInstr hg .bandPass pkind ops s
  case cfgBqNotch pkind ops => exact runsAlike_biquadInstr hg .notch pkind ops s
  case cfgBqApk pkind ops => exact runsAlike_biquadInstr hg .audioPeak pkind ops s
  case cfgBqPeq pkind ops => exact runsAlike_biquadInstr hg .peakingEq pkind ops s
  case cfgBqLs pkind ops => exact runsAlike_biquadInstr hg .lowShelf pkind ops s
  case cfgBqHs pkind ops => exact runsAlike_biquadInstr hg .highShelf pkind ops s

end RunsAlike

/-! ## The other channel -/

/-- This chain, these delay memories and this buffer in the channel that `c` is not. -/
def State.putOther (c : Channel) (chain : Chain) (delays : List (Nat × Cells 32)) (cells : Cells 32) (s : State) : State :=
  ((s.setChain c.other chain).setDelays c.other delays).setChCells c.other cells

section PutOther

variable (c : Channel) (chain : Chain) (delays : List (Nat × Cells 32)) (cells : Cells 32)

theorem unread_putOther : Unread (State.putOther c chain delays cells) c where
  chain _ := by cases c <;> rfl
  nslot _ := by cases c <;> rfl
  maxf _ := by cases c <;> rfl
  lenCh _ := by cases c <;> rfl
  freeTick _ := by cases c <;> rfl
  setChain _ _ := by cases c <;> rfl
  clearChain _ := by cases c <;> rfl
  cfgCommit _ _ _ := by cases c <;> rfl
  applySlot _ _ _ := by cases c <;> rfl

theorem putOther_complete (s : State) (code : ResultCode) (w : Word) :
    (State.putOther c chain delays cells s).complete code w =
      State.putOther c chain delays cells (s.complete code w) := by
  unfold State.complete
  split <;> cases c <;> rfl

end PutOther

/-- Settles O53: the channel that is not named is neither read nor written, and the completion touches no channel. -/
theorem channelsAreIsolated : Obligations.ChannelsAreIsolated := by
  intro i c s hc chain delays cells
  obtain ⟨code, u, hexec, hexec'⟩ := runsAlike_of_named (unread_putOther c chain delays cells) hc s
  rw [putOther_complete] at hexec'
  exact ⟨_, hexec, hexec'⟩

/-! ## The record -/

/-- Another record. -/
def State.withRecord (status errword result : Word) (s : State) : State :=
  { s with status := status, errword := errword, result := result }

section WithRecord

variable (status errword result : Word)

theorem unread_withRecord (c : Channel) : Unread (State.withRecord status errword result) c where
  chain _ := by cases c <;> rfl
  nslot _ := rfl
  maxf _ := rfl
  lenCh _ := by cases c <;> rfl
  freeTick _ := rfl
  setChain _ _ := by cases c <;> rfl
  clearChain _ := by cases c <;> rfl
  cfgCommit _ _ _ := by cases c <;> rfl
  applySlot _ _ _ := by cases c <;> rfl

/-- The completion overwrites RESULT, and what it leaves of the rest of the record is not looked at here. -/
theorem withRecord_complete (s : State) (code : ResultCode) (w : Word) :
    ((State.withRecord status errword result s).complete code w).result = (s.complete code w).result ∧
      { (State.withRecord status errword result s).complete code w with
        status := (s.complete code w).status, errword := (s.complete code w).errword } = s.complete code w := by
  unfold State.complete
  split <;> exact ⟨rfl, rfl⟩

variable (s : State)

theorem runsAlike_withRecord_decode : RunsAlike (State.withRecord status errword result) .decode s := by
  obtain h | h := Nat.lt_or_ge (2 * s.maxf) s.lenIn.toNat
  · exact ⟨.badLength, s, if_pos h, if_pos h⟩
  · exact ⟨.ok, _, exec_decode_of_le h, exec_decode_of_le (s := State.withRecord status errword result s) h⟩

theorem runsAlike_withRecord_encode : RunsAlike (State.withRecord status errword result) .encode s := by
  obtain h | h := Nat.lt_or_ge (2 * s.maxf) s.lenIlv.toNat
  · exact ⟨.badLength, s, if_pos h, if_pos h⟩
  · exact ⟨.ok, _, exec_encode_of_le h, exec_encode_of_le (s := State.withRecord status errword result s) h⟩

theorem runsAlike_withRecord_split : RunsAlike (State.withRecord status errword result) .split s := by
  obtain h | h := Nat.lt_or_ge (2 * s.maxf) s.lenIlv.toNat
  · exact ⟨.badLength, s, if_pos h, if_pos h⟩
  · exact ⟨.ok, _, exec_split_of_le h, exec_split_of_le (s := State.withRecord status errword result s) h⟩

theorem runsAlike_withRecord_merge : RunsAlike (State.withRecord status errword result) .merge s := by
  by_cases hlong : s.maxf < s.lenCh0.toNat ∨ s.maxf < s.lenCh1.toNat
  case pos => exact ⟨.badLength, s, if_pos hlong, if_pos hlong⟩
  case neg =>
    obtain ⟨h0, h1⟩ : s.lenCh0.toNat ≤ s.maxf ∧ s.lenCh1.toNat ≤ s.maxf := by omega
    by_cases hne : s.lenCh0 ≠ s.lenCh1
    case pos =>
      exact ⟨.lengthMismatch, s, exec_merge_of_lengths_ne h0 h1 hne,
        exec_merge_of_lengths_ne (s := State.withRecord status errword result s) h0 h1 hne⟩
    case neg =>
      have heq := (not_not.mp hne).symm
      exact ⟨.ok, _, exec_merge_of_lengths_eq h0 heq,
        exec_merge_of_lengths_eq (s := State.withRecord status errword result s) h0 heq⟩

theorem runsAlike_withRecord {i : Instr} (hclrst : i ≠ .clrst) (hsrst : i ≠ .srst) :
    RunsAlike (State.withRecord status errword result) i s := by
  cases hc : namedChannel i with
  | some c => exact runsAlike_of_named (unread_withRecord status errword result c) hc s
  | none =>
    cases i
    case nop => exact ⟨.ok, s, rfl, rfl⟩
    case clrst => exact absurd rfl hclrst
    case srst => exact absurd rfl hsrst
    case decode => exact runsAlike_withRecord_decode status errword result s
    case encode => exact runsAlike_withRecord_encode status errword result s
    case split => exact runsAlike_withRecord_split status errword result s
    case merge => exact runsAlike_withRecord_merge status errword result s
    all_goals cases hc

end WithRecord

/-- Settles O51: CLRST and SRST overwrite the record, and every other command runs alike until it completes. -/
theorem noCommandReadsTheRecord : Obligations.NoCommandReadsTheRecord := by
  intro i s status errword result
  by_cases hclrst : i = .clrst
  · subst hclrst
    exact ⟨_, _, exec_clrst s, exec_clrst _, rfl, rfl⟩
  by_cases hsrst : i = .srst
  · subst hsrst
    exact ⟨_, _, exec_srst s, exec_srst _, rfl, rfl⟩
  obtain ⟨code, u, hexec, hexec'⟩ := runsAlike_withRecord status errword result s hclrst hsrst
  exact ⟨_, _, hexec, hexec', withRecord_complete status errword result u code i.word0⟩

end Machine
end Sys2Proof
end

section
/-! The biquad: a NaN in its state or its input never heals (47_biquad_filter.md R193), and the eight constructors, whose
numbers are those of the coefficient unit without the numbering of free values (46_biquad_coefficients.md R160 to R171). -/

namespace Sys2Proof
namespace Machine

/-! ## A NaN stays a NaN (R193) -/

section NaN

variable {a b : F64} (free : BitVec 64)

theorem isNaN64_f64Add (h : isNaN64 a = true ∨ isNaN64 b = true) : isNaN64 (f64Add free a b) = true := by
  obtain h | h := h <;> simp [f64Add, (isNaN64_iff _).mp h]

theorem isNaN64_f64Sub (h : isNaN64 a = true ∨ isNaN64 b = true) : isNaN64 (f64Sub free a b) = true := by
  obtain h | h := h <;> simp [f64Sub, (isNaN64_iff _).mp h]

theorem isNaN64_f64Mul (h : isNaN64 a = true ∨ isNaN64 b = true) : isNaN64 (f64Mul free a b) = true := by
  obtain h | h := h <;> simp [f64Mul, (isNaN64_iff _).mp h]

theorem isNaN64_f64OfF32 {x : F32} (h : isNaN32 x = true) : isNaN64 (f64OfF32 free x) = true := by
  simp [f64OfF32, (isNaN32_iff x).mp h, exactConvert]

theorem isNaN32_f32OfF64 (h : isNaN64 a = true) : isNaN32 (f32OfF64 free a) = true := by
  simp [f32OfF64, (isNaN64_iff a).mp h, exactConvert]

end NaN

/-- Each ratio, each history and the input is a factor of one of the five terms, and each term is a summand. -/
theorem isNaN64_biquadOutput (free : Nat → BitVec 64) {r : Slot} {x : F64} (h : Poisoned r ∨ isNaN64 x = true) :
    isNaN64 (biquadOutput free r x) = true := by
  have hterms : ((((isNaN64 r.n0 = true ∨ isNaN64 x = true) ∨ (isNaN64 r.n1 = true ∨ isNaN64 r.x1 = true)) ∨
      (isNaN64 r.n2 = true ∨ isNaN64 r.x2 = true)) ∨ (isNaN64 r.n3 = true ∨ isNaN64 r.y1 = true)) ∨
      (isNaN64 r.n4 = true ∨ isNaN64 r.y2 = true) := by
    unfold Poisoned at h
    tauto
  refine isNaN64_f64Sub _ (hterms.imp (fun h => ?_) (isNaN64_f64Mul _))
  refine isNaN64_f64Sub _ (h.imp (fun h => ?_) (isNaN64_f64Mul _))
  refine isNaN64_f64Add _ (h.imp (fun h => ?_) (isNaN64_f64Mul _))
  exact isNaN64_f64Add _ (h.imp (isNaN64_f64Mul _) (isNaN64_f64Mul _))

/-- A NaN goes into Y1, and so stays in the slot. -/
theorem stepBiquad_poisoned (free : Nat → BitVec 64) {r : Slot} {x : F32} (h : Poisoned r ∨ isNaN32 x = true) :
    isNaN32 (stepBiquad free r x).1 = true ∧ Poisoned (stepBiquad free r x).2 := by
  have hout := isNaN64_biquadOutput free (h.imp_right (isNaN64_f64OfF32 (free 0)))
  have hy1 : isNaN64 (stepBiquad free r x).2.y1 = true := hout
  exact ⟨isNaN32_f32OfF64 _ hout, by simp [Poisoned, hy1]⟩

theorem isBiquad_stepBiquad {r : Slot} (h : r.IsBiquad) (free : Nat → BitVec 64) (x : F32) :
    (stepBiquad free r x).2.IsBiquad := h

/-- Settles O37: a step on a NaN leaves one in Y1, by induction over the rest of the buffer. -/
theorem biquadNaNNeverHeals : Obligations.BiquadNaNNeverHeals := by
  intro free i st x xs hbiquad hnan
  induction xs generalizing i st x with
  | nil =>
    obtain ⟨hout, hpoisoned⟩ := stepBiquad_poisoned (free i) hnan
    simpa [runFilter, stepFilter_of_isBiquad hbiquad] using ⟨hout, hpoisoned⟩
  | cons y ys ih =>
    obtain ⟨hout, hpoisoned⟩ := stepBiquad_poisoned (free i) hnan
    obtain ⟨houts, hlast⟩ := ih (i + 1) ((stepBiquad (free i) st.1 x).2, st.2) y (isBiquad_stepBiquad hbiquad (free i) x)
      (Or.inl hpoisoned)
    rw [runFilter, stepFilter_of_isBiquad hbiquad]
    exact ⟨List.forall_mem_cons.mpr ⟨hout, houts⟩, hlast⟩

/-! ## The operations of the coefficient unit read numbers only -/

section Operations

variable {a a' b b' : F64}

theorem SameNumber.f64Div_cookbook (ha : SameNumber a a') (hb : SameNumber b b') (free : BitVec 64) :
    SameNumber (f64Div free a b) (Cookbook.div a' b') := by
  rw [f64Div, Cookbook.div, f64Div, ha.value64_eq, hb.value64_eq]
  exact sameNumber_deliver64 free _ _

theorem SameNumber.f64Sqrt_cookbook (ha : SameNumber a a') (free : BitVec 64) :
    SameNumber (f64Sqrt free a) (Cookbook.sqrt a') := by
  rw [f64Sqrt, Cookbook.sqrt, f64Sqrt, ha.value64_eq]
  exact sameNumber_deliver64 free _ _

/-- Flipping the sign leaves the magnitude, and so leaves a NaN a NaN (40_numerics.md R90). -/
theorem isNaN64_f64Neg (h : isNaN64 a = true) : isNaN64 (f64Neg a) = true := by
  have hmag : (f64Neg a).toNat % 2 ^ 63 = a.toNat % 2 ^ 63 := by
    rw [f64Neg, BitVec.toNat_xor, Nat.xor_mod_two_pow]
    exact Nat.xor_zero _
  rw [isNaN64_iff, value64, floatValue_eq_nan_iff] at h ⊢
  have hweight : binary64.signWeight = 2 ^ 63 := by decide
  rw [hweight] at h ⊢
  rwa [hmag]

theorem SameNumber.f64Neg (h : SameNumber a a') : SameNumber (f64Neg a) (f64Neg a') := by
  obtain rfl | ⟨ha, ha'⟩ := h
  · exact sameNumber_refl _
  · exact Or.inr ⟨isNaN64_f64Neg ha, isNaN64_f64Neg ha'⟩

/-- P2 of R92. -/
theorem SameNumber.fCos (h : SameNumber a a') : SameNumber (fCos a) (fCos a') := by
  obtain rfl | ⟨ha, ha'⟩ := h
  · exact sameNumber_refl _
  · exact Or.inr ⟨by simp [Machine.fCos, ha], by simp [Machine.fCos, ha']⟩

/-- P2 of R92. -/
theorem SameNumber.fSin (h : SameNumber a a') : SameNumber (fSin a) (fSin a') := by
  obtain rfl | ⟨ha, ha'⟩ := h
  · exact sameNumber_refl _
  · exact Or.inr ⟨by simp [Machine.fSin, ha], by simp [Machine.fSin, ha']⟩

/-- P2 of R92. -/
theorem SameNumber.fPow (b : F64) (h : SameNumber a a') : SameNumber (fPow b a) (fPow b a') := by
  obtain rfl | ⟨ha, ha'⟩ := h
  · exact sameNumber_refl _
  · exact Or.inr ⟨by simp [Machine.fPow, ha], by simp [Machine.fPow, ha']⟩

end Operations

/-! ## The intermediates (R161, R162) -/

section Terms

variable (free : Nat → BitVec 64) (ops : BiquadOperands)

theorem gainTerm_sameNumber : SameNumber (gainTerm free ops.gainDb) (Cookbook.bigA ops) :=
  ((sameNumber_refl ops.gainDb).f64Div_cookbook (sameNumber_refl forty64) _).fPow ten64

theorem omegaTerm_sameNumber : SameNumber (omegaTerm free ops.rate ops.f0) (Cookbook.omega ops) := by
  have htwoPi := (sameNumber_refl two64).f64Mul_cookbook (sameNumber_refl piF64) (free 1)
  have hproduct := htwoPi.f64Mul_cookbook (sameNumber_refl ops.f0) (free 2)
  exact hproduct.f64Div_cookbook (sameNumber_refl ops.rate) (free 3)

variable {free ops} {sn a : F64}

theorem alphaOfQ_sameNumber (hsn : SameNumber sn (Cookbook.sn ops)) :
    SameNumber (alphaOfQ free sn ops.param) (Cookbook.alphaQ ops) :=
  hsn.f64Div_cookbook ((sameNumber_refl two64).f64Mul_cookbook (sameNumber_refl ops.param) _) _

theorem alphaOfBandwidth_sameNumber (hsn : SameNumber sn (Cookbook.sn ops)) :
    SameNumber (alphaOfBandwidth free sn ops.param) (Cookbook.alphaBandwidth ops) := by
  have hpower := sameNumber_refl (fPow two64 ops.param)
  have hq := (hpower.f64Sqrt_cookbook (free 6)).f64Div_cookbook
    (hpower.f64Sub_cookbook (sameNumber_refl one64) (free 7)) (free 8)
  exact hsn.f64Div_cookbook ((sameNumber_refl two64).f64Mul_cookbook hq (free 9)) (free 10)

theorem alphaOfSlope_sameNumber (hsn : SameNumber sn (Cookbook.sn ops)) (ha : SameNumber a (Cookbook.bigA ops)) :
    SameNumber (alphaOfSlope free sn a ops.param) (Cookbook.alphaSlope ops) := by
  have hone := sameNumber_refl one64
  have hsum := ha.f64Add_cookbook (hone.f64Div_cookbook ha (free 12)) (free 13)
  have hexcess := (hone.f64Div_cookbook (sameNumber_refl ops.param) (free 14)).f64Sub_cookbook hone (free 15)
  have hradicand := (hsum.f64Mul_cookbook hexcess (free 16)).f64Add_cookbook (sameNumber_refl two64) (free 17)
  exact (hsn.f64Div_cookbook (sameNumber_refl two64) (free 11)).f64Mul_cookbook (hradicand.f64Sqrt_cookbook (free 18))
    (free 19)

end Terms

/-- The intermediates are the spec's, up to the bits of a NaN. -/
structure TermsAre (t : BiquadTerms) (pkind : ParamKind) (ops : BiquadOperands) : Prop where
  a : SameNumber t.a (Cookbook.bigA ops)
  cs : SameNumber t.cs (Cookbook.cs ops)
  sn : SameNumber t.sn (Cookbook.sn ops)
  al : SameNumber t.al (Cookbook.alpha pkind ops)

theorem termsAre_mk {a cs sn al : F64} {pkind : ParamKind} {ops : BiquadOperands}
    (ha : SameNumber a (Cookbook.bigA ops)) (hcs : SameNumber cs (Cookbook.cs ops))
    (hsn : SameNumber sn (Cookbook.sn ops)) (hal : SameNumber al (Cookbook.alpha pkind ops)) :
    TermsAre ⟨a, cs, sn, al⟩ pkind ops :=
  ⟨ha, hcs, hsn, hal⟩

theorem termsAre_biquadTerms (free : Nat → BitVec 64) (pkind : ParamKind) (ops : BiquadOperands) :
    TermsAre (biquadTerms free pkind ops) pkind ops := by
  have ha := gainTerm_sameNumber free ops
  have hsn : SameNumber (fSin (omegaTerm free ops.rate ops.f0)) (Cookbook.sn ops) := (omegaTerm_sameNumber free ops).fSin
  have hcs : SameNumber (fCos (omegaTerm free ops.rate ops.f0)) (Cookbook.cs ops) := (omegaTerm_sameNumber free ops).fCos
  refine termsAre_mk ha hcs hsn ?_
  cases pkind with
  | q => exact alphaOfQ_sameNumber hsn
  | bandwidth => exact alphaOfBandwidth_sameNumber hsn
  | slope => exact alphaOfSlope_sameNumber hsn ha
  | reserved => exact alphaOfQ_sameNumber hsn

/-! ## The formula sets (R164 to R171) -/

/-- Six raw coefficients, up to the bits of a NaN. -/
def RawIs (raw : RawCoefficients) (b0 b1 b2 a0 a1 a2 : F64) : Prop :=
  SameNumber raw.b0 b0 ∧ SameNumber raw.b1 b1 ∧ SameNumber raw.b2 b2 ∧
  SameNumber raw.a0 a0 ∧ SameNumber raw.a1 a1 ∧ SameNumber raw.a2 a2

section Formulas

open Cookbook (add sub mul div)

variable {free : Nat → BitVec 64} {t : BiquadTerms} {pkind : ParamKind} {ops : BiquadOperands}

theorem denominator0_sameNumber (h : TermsAre t pkind ops) :
    SameNumber (denominator0 free t) (add one64 (Cookbook.alpha pkind ops)) :=
  (sameNumber_refl one64).f64Add_cookbook h.al _

theorem denominator2_sameNumber (h : TermsAre t pkind ops) :
    SameNumber (denominator2 free t) (sub one64 (Cookbook.alpha pkind ops)) :=
  (sameNumber_refl one64).f64Sub_cookbook h.al _

theorem negTwoCos_sameNumber (h : TermsAre t pkind ops) (f : BitVec 64) :
    SameNumber (f64Neg (f64Mul f two64 t.cs)) (Cookbook.minusTwoCos ops) :=
  ((sameNumber_refl two64).f64Mul_cookbook h.cs f).f64Neg

theorem lowPassRaw_is (h : TermsAre t pkind ops) :
    RawIs (lowPassRaw free t) (div (sub one64 (Cookbook.cs ops)) two64) (sub one64 (Cookbook.cs ops))
      (div (sub one64 (Cookbook.cs ops)) two64) (add one64 (Cookbook.alpha pkind ops)) (Cookbook.minusTwoCos ops)
      (sub one64 (Cookbook.alpha pkind ops)) := by
  have hn := (sameNumber_refl one64).f64Sub_cookbook h.cs (free 20)
  exact ⟨hn.f64Div_cookbook (sameNumber_refl two64) _, hn, hn.f64Div_cookbook (sameNumber_refl two64) _,
    denominator0_sameNumber h, negTwoCos_sameNumber h _, denominator2_sameNumber h⟩

theorem highPassRaw_is (h : TermsAre t pkind ops) :
    RawIs (highPassRaw free t) (div (add one64 (Cookbook.cs ops)) two64) (f64Neg (add one64 (Cookbook.cs ops)))
      (div (add one64 (Cookbook.cs ops)) two64) (add one64 (Cookbook.alpha pkind ops)) (Cookbook.minusTwoCos ops)
      (sub one64 (Cookbook.alpha pkind ops)) := by
  have hn := (sameNumber_refl one64).f64Add_cookbook h.cs (free 20)
  exact ⟨hn.f64Div_cookbook (sameNumber_refl two64) _, hn.f64Neg, hn.f64Div_cookbook (sameNumber_refl two64) _,
    denominator0_sameNumber h, negTwoCos_sameNumber h _, denominator2_sameNumber h⟩

theorem bandPassRaw_is (h : TermsAre t pkind ops) :
    RawIs (bandPassRaw free t) (Cookbook.alpha pkind ops) 0#64 (f64Neg (Cookbook.alpha pkind ops))
      (add one64 (Cookbook.alpha pkind ops)) (Cookbook.minusTwoCos ops) (sub one64 (Cookbook.alpha pkind ops)) :=
  ⟨h.al, sameNumber_refl _, h.al.f64Neg, denominator0_sameNumber h, negTwoCos_sameNumber h _,
    denominator2_sameNumber h⟩

theorem notchRaw_is (h : TermsAre t pkind ops) :
    RawIs (notchRaw free t) one64 (Cookbook.minusTwoCos ops) one64 (add one64 (Cookbook.alpha pkind ops))
      (Cookbook.minusTwoCos ops) (sub one64 (Cookbook.alpha pkind ops)) :=
  ⟨sameNumber_refl _, negTwoCos_sameNumber h _, sameNumber_refl _, denominator0_sameNumber h, negTwoCos_sameNumber h _,
    denominator2_sameNumber h⟩

theorem audioPeakRaw_is (h : TermsAre t pkind ops) :
    RawIs (audioPeakRaw free t) (div (Cookbook.sn ops) two64) 0#64 (f64Neg (div (Cookbook.sn ops) two64))
      (add one64 (Cookbook.alpha pkind ops)) (Cookbook.minusTwoCos ops) (sub one64 (Cookbook.alpha pkind ops)) := by
  have hh := h.sn.f64Div_cookbook (sameNumber_refl two64) (free 20)
  exact ⟨hh, sameNumber_refl _, hh.f64Neg, denominator0_sameNumber h, negTwoCos_sameNumber h _,
    denominator2_sameNumber h⟩

theorem peakingEqRaw_is (h : TermsAre t pkind ops) :
    RawIs (peakingEqRaw free t) (add one64 (mul (Cookbook.alpha pkind ops) (Cookbook.bigA ops)))
      (Cookbook.minusTwoCos ops) (sub one64 (mul (Cookbook.alpha pkind ops) (Cookbook.bigA ops)))
      (add one64 (div (Cookbook.alpha pkind ops) (Cookbook.bigA ops))) (Cookbook.minusTwoCos ops)
      (sub one64 (div (Cookbook.alpha pkind ops) (Cookbook.bigA ops))) := by
  have hone := sameNumber_refl one64
  exact ⟨hone.f64Add_cookbook (h.al.f64Mul_cookbook h.a _) _, negTwoCos_sameNumber h _,
    hone.f64Sub_cookbook (h.al.f64Mul_cookbook h.a _) _, hone.f64Add_cookbook (h.al.f64Div_cookbook h.a _) _,
    negTwoCos_sameNumber h _, hone.f64Sub_cookbook (h.al.f64Div_cookbook h.a _) _⟩

/-- The common terms of the two shelves are the spec's (R170). -/
structure ShelfTermsAre (h : ShelfTerms) (ops : BiquadOperands) : Prop where
  r : SameNumber h.r (Cookbook.r ops)
  p : SameNumber h.p (Cookbook.p ops)
  m : SameNumber h.m (Cookbook.m ops)
  u : SameNumber h.u (Cookbook.u ops)
  v : SameNumber h.v (Cookbook.v ops)

theorem shelfTermsAre_shelfTerms (h : TermsAre t .slope ops) : ShelfTermsAre (shelfTerms free t) ops := by
  have hp := h.a.f64Add_cookbook (sameNumber_refl one64) (free 23)
  have hm := h.a.f64Sub_cookbook (sameNumber_refl one64) (free 24)
  have hroot := (sameNumber_refl two64).f64Mul_cookbook (h.a.f64Sqrt_cookbook (free 20)) (free 21)
  exact ⟨hroot.f64Mul_cookbook h.al (free 22), hp, hm, hp.f64Sub_cookbook (hm.f64Mul_cookbook h.cs (free 25)) (free 26),
    hp.f64Add_cookbook (hm.f64Mul_cookbook h.cs (free 27)) (free 28)⟩

theorem lowShelfRaw_is (h : TermsAre t .slope ops) :
    RawIs (lowShelfRaw free t) (mul (Cookbook.bigA ops) (add (Cookbook.u ops) (Cookbook.r ops)))
      (mul (mul two64 (Cookbook.bigA ops)) (sub (Cookbook.m ops) (mul (Cookbook.p ops) (Cookbook.cs ops))))
      (mul (Cookbook.bigA ops) (sub (Cookbook.u ops) (Cookbook.r ops))) (add (Cookbook.v ops) (Cookbook.r ops))
      (f64Neg (mul two64 (add (Cookbook.m ops) (mul (Cookbook.p ops) (Cookbook.cs ops)))))
      (sub (Cookbook.v ops) (Cookbook.r ops)) := by
  obtain ⟨hr, hp, hm, hu, hv⟩ := shelfTermsAre_shelfTerms (free := free) h
  have htwo := sameNumber_refl two64
  exact ⟨h.a.f64Mul_cookbook (hu.f64Add_cookbook hr _) _,
    (htwo.f64Mul_cookbook h.a _).f64Mul_cookbook (hm.f64Sub_cookbook (hp.f64Mul_cookbook h.cs _) _) _,
    h.a.f64Mul_cookbook (hu.f64Sub_cookbook hr _) _, hv.f64Add_cookbook hr _,
    (htwo.f64Mul_cookbook (hm.f64Add_cookbook (hp.f64Mul_cookbook h.cs _) _) _).f64Neg, hv.f64Sub_cookbook hr _⟩

theorem highShelfRaw_is (h : TermsAre t .slope ops) :
    RawIs (highShelfRaw free t) (mul (Cookbook.bigA ops) (add (Cookbook.v ops) (Cookbook.r ops)))
      (f64Neg (mul (mul two64 (Cookbook.bigA ops)) (add (Cookbook.m ops) (mul (Cookbook.p ops) (Cookbook.cs ops)))))
      (mul (Cookbook.bigA ops) (sub (Cookbook.v ops) (Cookbook.r ops))) (add (Cookbook.u ops) (Cookbook.r ops))
      (mul two64 (sub (Cookbook.m ops) (mul (Cookbook.p ops) (Cookbook.cs ops))))
      (sub (Cookbook.u ops) (Cookbook.r ops)) := by
  obtain ⟨hr, hp, hm, hu, hv⟩ := shelfTermsAre_shelfTerms (free := free) h
  have htwo := sameNumber_refl two64
  exact ⟨h.a.f64Mul_cookbook (hv.f64Add_cookbook hr _) _,
    ((htwo.f64Mul_cookbook h.a _).f64Mul_cookbook (hm.f64Add_cookbook (hp.f64Mul_cookbook h.cs _) _) _).f64Neg,
    h.a.f64Mul_cookbook (hv.f64Sub_cookbook hr _) _, hu.f64Add_cookbook hr _,
    htwo.f64Mul_cookbook (hm.f64Sub_cookbook (hp.f64Mul_cookbook h.cs _) _) _, hu.f64Sub_cookbook hr _⟩

end Formulas

/-! ## The eight commands (R160, R163) -/

section BuildsBiquad

variable (type : ResponseType) (c : Channel) (pkind : ParamKind) (ops : BiquadOperands) (s : State)

theorem word0_biquadInstr_eq :
    (biquadInstr type c pkind ops).word0 = biquadWord (BitVec.ofNat 32 type.code) pkind c := by
  have htype : (BitVec.ofNat 4 type.code).setWidth 32 = BitVec.ofNat 32 type.code := by cases type <;> rfl
  rw [word0_biquadInstr, mkWord0_eq_add, htype]
  rfl

theorem encode_biquadInstr :
    encode (biquadInstr type c pkind ops) =
      biquadWord (BitVec.ofNat 32 type.code) pkind c :: biquadOperandWords ops := by
  rw [encode, word0_biquadInstr_eq, operandWords_biquadInstr]

/-- A slot with the six raw coefficients and the five ratios to a0 (R163). -/
theorem biquadSlotIs_biquadSlot (free : Nat → BitVec 64) {raw : RawCoefficients} {b0 b1 b2 a0 a1 a2 : F64}
    (h : RawIs raw b0 b1 b2 a0 a1 a2) :
    BiquadSlotIs (biquadSlot free type pkind raw) (biquadKindWord (BitVec.ofNat 64 type.code) pkind) b0 b1 b2 a0 a1 a2 := by
  obtain ⟨hb0, hb1, hb2, ha0, ha1, ha2⟩ := h
  exact ⟨rfl, rfl, rfl, rfl, hb0, hb1, hb2, ha0, ha1, ha2, hb0.f64Div_cookbook ha0 _, hb1.f64Div_cookbook ha0 _,
    hb2.f64Div_cookbook ha0 _, ha1.f64Div_cookbook ha0 _, ha2.f64Div_cookbook ha0 _, rfl, rfl, rfl, rfl⟩

/-- The part that the eight statements share: the packet, the errors, and the slot that the type's formulas build.
`badKind` is the test of PKIND, and `hvalid` says that it and the sign tests are the command's validation. -/
theorem biquadSlotIsBuilt {badKind : Bool} {b0 b1 b2 a0 a1 a2 : F64}
    (hvalid : (badKind || notAllPositive ops) = invalidParameter (biquadInstr type c pkind ops))
    (hraw : badKind = false → ∀ free t, TermsAre t pkind ops → RawIs (type.rawFormulas free t) b0 b1 b2 a0 a1 a2) :
    encode (biquadInstr type c pkind ops) =
        biquadWord (BitVec.ofNat 32 type.code) pkind c :: biquadOperandWords ops ∧
      CfgErrors (biquadInstr type c pkind ops) c (biquadWord (BitVec.ofNat 32 type.code) pkind c)
        (badKind = true ∨ notAllPositive ops = true) s ∧
      (CanBuild c s → badKind = false → notAllPositive ops = false →
        BuildsBiquad (biquadInstr type c pkind ops) c (biquadWord (BitVec.ofNat 32 type.code) pkind c)
          (biquadKindWord (BitVec.ofNat 64 type.code) pkind) b0 b1 b2 a0 a1 a2 s) := by
  rw [invalidParameter_biquadInstr] at hvalid
  have hexec := exec_biquadInstr_eq type c pkind ops s
  rw [word0_biquadInstr_eq] at hexec
  refine ⟨encode_biquadInstr type c pkind ops, ?errors, fun hbuild hkind hpositive => ?built⟩
  case errors =>
    refine cfgErrors_of_cfgBegin hexec fun hinvalid k => if_neg ?_
    have hbad : (badKind || notAllPositive ops) = true := Bool.or_eq_true_iff.mpr hinvalid
    simpa [hvalid] using hbad
  case built =>
    have hok : biquadOperandsValid type pkind ops = true := by simpa [hkind, hpositive] using hvalid.symm
    rw [State.configureBiquad, cfgBegin_of_canBuild _ _ hbuild, if_pos hok] at hexec
    exact ⟨_, _, hexec, recorded_cfgCommit_complete s c _ _ .ok _, built_cfgCommit_complete hbuild _ .ok _,
      biquadSlotIs_biquadSlot type pkind _ (hraw hkind _ _ (termsAre_biquadTerms _ pkind ops))⟩

variable {pkind}

theorem eq_slope_of_kindNotSlope (h : kindNotSlope pkind = false) : pkind = .slope := by
  cases pkind
  case slope => rfl
  all_goals cases h

end BuildsBiquad

/-- Settles O41, with the LowPass formula set. -/
theorem lowPassSlotIsBuilt : Obligations.LowPassSlotIsBuilt := fun c pkind ops s =>
  biquadSlotIsBuilt .lowPass c pkind ops s rfl fun _ _ _ => lowPassRaw_is

/-- Settles O42, with the HighPass formula set. -/
theorem highPassSlotIsBuilt : Obligations.HighPassSlotIsBuilt := fun c pkind ops s =>
  biquadSlotIsBuilt .highPass c pkind ops s rfl fun _ _ _ => highPassRaw_is

/-- Settles O43, with the BandPass formula set. -/
theorem bandPassSlotIsBuilt : Obligations.BandPassSlotIsBuilt := fun c pkind ops s =>
  biquadSlotIsBuilt .bandPass c pkind ops s rfl fun _ _ _ => bandPassRaw_is

/-- Settles O44, with the Notch formula set. -/
theorem notchSlotIsBuilt : Obligations.NotchSlotIsBuilt := fun c pkind ops s =>
  biquadSlotIsBuilt .notch c pkind ops s rfl fun _ _ _ => notchRaw_is

/-- Settles O45, with the AudioPeak formula set. -/
theorem audioPeakSlotIsBuilt : Obligations.AudioPeakSlotIsBuilt := fun c pkind ops s =>
  biquadSlotIsBuilt .audioPeak c pkind ops s rfl fun _ _ _ => audioPeakRaw_is

/-- Settles O46, with the PeakingEQ formula set. -/
theorem peakingEqSlotIsBuilt : Obligations.PeakingEqSlotIsBuilt := fun c pkind ops s =>
  biquadSlotIsBuilt .peakingEq c pkind ops s rfl fun _ _ _ => peakingEqRaw_is

/-- Settles O47, with the LowShelf formula set, whose α is the one from a slope. -/
theorem lowShelfSlotIsBuilt : Obligations.LowShelfSlotIsBuilt := fun c pkind ops s =>
  biquadSlotIsBuilt .lowShelf c pkind ops s rfl fun hkind _ _ hterms =>
    lowShelfRaw_is (eq_slope_of_kindNotSlope hkind ▸ hterms)

/-- Settles O48, with the HighShelf formula set, whose α is the one from a slope. -/
theorem highShelfSlotIsBuilt : Obligations.HighShelfSlotIsBuilt := fun c pkind ops s =>
  biquadSlotIsBuilt .highShelf c pkind ops s rfl fun hkind _ _ hterms =>
    highShelfRaw_is (eq_slope_of_kindNotSlope hkind ▸ hterms)

end Machine
end Sys2Proof
end

section
/-! Rounding to nearest, ties to even (40_numerics.md R85), the square root (R93) and the test for a positive number
(R88). -/

namespace Sys2Proof
namespace Machine

/-! ## Values by exponent and fraction (R83, R84) -/

section MagUnits

variable (f : FloatFormat)

/-- The magnitude with exponent field `e + 1`, or with exponent field 0 and then `e = 0`: its units are `q` of the weight
2^e. A `q` of 2 ^ (fracBits + 1) carries into the exponent. -/
theorem magUnits_eq_mul {e q : Nat} (hq : q ≤ 2 ^ (f.fracBits + 1)) (hnormal : e = 0 ∨ 2 ^ f.fracBits ≤ q) :
    magUnits f (e * 2 ^ f.fracBits + q) = q * 2 ^ e := by
  have hpos : 0 < 2 ^ f.fracBits := Nat.two_pow_pos _
  rw [pow_succ] at hq
  obtain hlt | hge := Nat.lt_or_ge q (2 ^ f.fracBits)
  case inl =>
    obtain rfl : e = 0 := by omega
    simp [magUnits, Nat.div_eq_of_lt hlt]
  case inr =>
    obtain ⟨d, rfl⟩ := Nat.exists_eq_add_of_le hge
    have hsplit : e * 2 ^ f.fracBits + (2 ^ f.fracBits + d) = d + 2 ^ f.fracBits * (e + 1) := by ring
    rw [hsplit, magUnits, Nat.add_mul_div_left _ _ hpos, Nat.add_mul_mod_self_left]
    obtain hd | hd := Nat.lt_or_ge d (2 ^ f.fracBits)
    case inl => simp [Nat.div_eq_of_lt hd, Nat.mod_eq_of_lt hd]
    case inr =>
      obtain rfl : d = 2 ^ f.fracBits := by omega
      simp [Nat.div_self hpos, pow_succ]
      ring

/-- Every magnitude has an exponent and a fraction. -/
theorem exists_exponent (k : Nat) :
    ∃ e q, k = e * 2 ^ f.fracBits + q ∧ q < 2 ^ (f.fracBits + 1) ∧ (e = 0 ∨ 2 ^ f.fracBits ≤ q) := by
  have hpos : 0 < 2 ^ f.fracBits := Nat.two_pow_pos _
  have hdiv := Nat.div_add_mod k (2 ^ f.fracBits)
  have hmod := Nat.mod_lt k hpos
  rw [pow_succ]
  cases hfield : k / 2 ^ f.fracBits with
  | zero =>
    rw [hfield] at hdiv
    exact ⟨0, k, by omega, by omega, Or.inl rfl⟩
  | succ e =>
    refine ⟨e, 2 ^ f.fracBits + k % 2 ^ f.fracBits, ?_, by omega, Or.inr (by omega)⟩
    have hmul : 2 ^ f.fracBits * (e + 1) = e * 2 ^ f.fracBits + 2 ^ f.fracBits := by ring
    rw [hfield] at hdiv
    omega

/-- The value after the largest finite one is the next power of two. -/
theorem magUnits_infMag (hexp : 1 ≤ f.expBits) : magUnits f f.infMag = 2 ^ (f.fracBits + (2 ^ f.expBits - 2)) := by
  have htwo : 2 ^ 1 ≤ 2 ^ f.expBits := Nat.pow_le_pow_right (by decide) hexp
  have hsplit : f.infMag = (2 ^ f.expBits - 2) * 2 ^ f.fracBits + 2 ^ f.fracBits := by
    rw [FloatFormat.infMag, ← Nat.succ_mul]
    congr 1
    omega
  rw [hsplit, magUnits_eq_mul f (Nat.pow_le_pow_right (by decide) (Nat.le_succ _)) (Or.inr le_rfl), ← pow_add]

theorem magUnits_lt_succ (k : Nat) : magUnits f k < magUnits f (k + 1) := by
  obtain ⟨e, q, rfl, hq, hnormal⟩ := exists_exponent f k
  rw [Nat.add_assoc, magUnits_eq_mul f hq.le hnormal, magUnits_eq_mul f hq (hnormal.imp_right (by omega))]
  exact Nat.mul_lt_mul_of_pos_right (Nat.lt_succ_self q) (Nat.two_pow_pos e)

theorem magUnits_strictMono : StrictMono (magUnits f) := strictMono_nat_of_lt_succ (magUnits_lt_succ f)

end MagUnits

/-! ## Rounding to a multiple of the last place -/

/-- No multiple of `scale` is nearer to `num` than the one that `roundQuotient` picks, and an equally near one other than it
leaves it even. -/
theorem roundQuotient_nearest {scale : Nat} (hscale : 0 < scale) (num j : Nat) :
    gap (roundQuotient num scale * scale) num ≤ gap (j * scale) num ∧
      (j ≠ roundQuotient num scale → gap (roundQuotient num scale * scale) num = gap (j * scale) num →
        roundQuotient num scale % 2 = 0) := by
  have hmod := Nat.mod_lt num hscale
  have hdiv := Nat.div_add_mod' num scale
  have hsucc : (num / scale + 1) * scale = num / scale * scale + scale := by ring
  have hplace : (j < num / scale ∧ j * scale + scale ≤ num / scale * scale) ∨ j = num / scale ∨ j = num / scale + 1 ∨
      (num / scale + 1 < j ∧ num / scale * scale + 2 * scale ≤ j * scale) := by
    obtain h | h | h | h : j + 1 ≤ num / scale ∨ j = num / scale ∨ j = num / scale + 1 ∨ num / scale + 2 ≤ j := by omega
    · have hmul := Nat.mul_le_mul_right scale h
      exact Or.inl ⟨h, by rwa [Nat.add_mul, Nat.one_mul] at hmul⟩
    · exact Or.inr (Or.inl h)
    · exact Or.inr (Or.inr (Or.inl h))
    · have hmul := Nat.mul_le_mul_right scale h
      exact Or.inr (Or.inr (Or.inr ⟨h, by rwa [Nat.add_mul] at hmul⟩))
  unfold gap roundQuotient
  split
  case isTrue hup =>
    rw [hsucc]
    obtain ⟨hj, hle⟩ | rfl | rfl | ⟨hj, hle⟩ := hplace
    all_goals omega
  case isFalse hdown =>
    rw [Nat.add_zero]
    obtain ⟨hj, hle⟩ | rfl | rfl | ⟨hj, hle⟩ := hplace
    all_goals omega

theorem roundQuotient_bounds (num scale : Nat) :
    num / scale ≤ roundQuotient num scale ∧ roundQuotient num scale ≤ num / scale + 1 := by
  unfold roundQuotient
  split <;> omega

/-! ## Rounding to a format (R85) -/

section RoundMag

variable (f : FloatFormat) {num den : Nat}

/-- The magnitude before it is cut off at the infinity. -/
def roundMagUncut (num den : Nat) : Nat :=
  roundShift f num den * 2 ^ f.fracBits + roundQuotient num (den * 2 ^ roundShift f num den)

theorem roundMag_eq_min (num den : Nat) : roundMag f num den = min (roundMagUncut f num den) f.infMag := rfl

/-- The shift leaves as many binary places as the fraction has, and one for the hidden bit. -/
theorem roundShift_spec (hden : 0 < den) :
    num < den * 2 ^ (f.fracBits + roundShift f num den + 1) ∧
      (roundShift f num den = 0 ∨ den * 2 ^ (f.fracBits + roundShift f num den) ≤ num) := by
  have hlt : num / den < 2 ^ (Nat.log2 (num / den) + 1) := Nat.lt_log2_self
  have hexp : Nat.log2 (num / den) + 1 ≤ f.fracBits + roundShift f num den + 1 := by
    rw [roundShift]
    omega
  refine ⟨?upper, ?lower⟩
  case upper =>
    rw [Nat.mul_comm]
    exact (Nat.div_lt_iff_lt_mul hden).mp (hlt.trans_le (Nat.pow_le_pow_right (by decide) hexp))
  case lower =>
    by_cases hzero : roundShift f num den = 0
    case pos => exact Or.inl hzero
    case neg =>
      right
      have hsum : f.fracBits + roundShift f num den = Nat.log2 (num / den) := by
        rw [roundShift] at hzero ⊢
        omega
      have hne : num / den ≠ 0 := by
        intro hq
        rw [roundShift, hq] at hzero
        exact hzero (Nat.zero_sub _)
      rw [hsum, Nat.mul_comm]
      exact (Nat.le_div_iff_mul_le hden).mp (Nat.log2_self_le hne)

/-- The quotient in units of the last place has the bits of a fraction with its hidden bit, and may carry out of them. -/
theorem roundQuotient_shift_bounds (hden : 0 < den) :
    roundQuotient num (den * 2 ^ roundShift f num den) ≤ 2 ^ (f.fracBits + 1) ∧
      (roundShift f num den = 0 ∨ 2 ^ f.fracBits ≤ roundQuotient num (den * 2 ^ roundShift f num den)) := by
  obtain ⟨hupper, hlower⟩ := roundShift_spec f (num := num) hden
  have hscale : 0 < den * 2 ^ roundShift f num den := Nat.mul_pos hden (Nat.two_pow_pos _)
  obtain ⟨hdown, hup⟩ := roundQuotient_bounds num (den * 2 ^ roundShift f num den)
  refine ⟨hup.trans ?_, hlower.imp_right fun h => le_trans ?_ hdown⟩
  · refine Nat.succ_le_of_lt ((Nat.div_lt_iff_lt_mul hscale).mpr (hupper.trans_eq ?_))
    ring
  · refine (Nat.le_div_iff_mul_le hscale).mpr (le_trans (le_of_eq ?_) h)
    ring

theorem magUnits_roundMagUncut (hden : 0 < den) :
    magUnits f (roundMagUncut f num den) =
      roundQuotient num (den * 2 ^ roundShift f num den) * 2 ^ roundShift f num den := by
  obtain ⟨hle, hnormal⟩ := roundQuotient_shift_bounds f (num := num) hden
  exact magUnits_eq_mul f hle hnormal

/-- A magnitude below the exponent of the result is farther from it than the least one of that exponent. -/
theorem gap_lt_of_small_exponent (hden : 0 < den) {e q : Nat} (hq : q < 2 ^ (f.fracBits + 1))
    (he : e < roundShift f num den) :
    gap (2 ^ f.fracBits * (den * 2 ^ roundShift f num den)) num < gap (q * 2 ^ e * den) num := by
  obtain ⟨-, hzero | hle⟩ := roundShift_spec f (num := num) hden
  case inl => omega
  case inr =>
    have hsmall : q * 2 ^ e < 2 ^ (f.fracBits + roundShift f num den) :=
      calc q * 2 ^ e < 2 ^ (f.fracBits + 1) * 2 ^ e := Nat.mul_lt_mul_of_pos_right hq (Nat.two_pow_pos e)
        _ = 2 ^ (f.fracBits + (e + 1)) := by ring
        _ ≤ 2 ^ (f.fracBits + roundShift f num den) := Nat.pow_le_pow_right (by decide) (by omega)
    have hscaled := Nat.mul_lt_mul_of_pos_right hsmall hden
    have hleast : 2 ^ f.fracBits * (den * 2 ^ roundShift f num den) = 2 ^ (f.fracBits + roundShift f num den) * den := by
      ring
    rw [Nat.mul_comm] at hle
    rw [hleast]
    unfold gap
    omega

/-- Before the cut no magnitude is nearer than the result, and an equally near one other than it leaves it even: at the
result's exponent or above the candidates are multiples of its last place, and below it they are too far. -/
theorem roundMagUncut_nearest (hfrac : 1 ≤ f.fracBits) (hden : 0 < den) (k : Nat) :
    gap (magUnits f (roundMagUncut f num den) * den) num ≤ gap (magUnits f k * den) num ∧
      (k ≠ roundMagUncut f num den →
        gap (magUnits f (roundMagUncut f num den) * den) num = gap (magUnits f k * den) num →
        roundMagUncut f num den % 2 = 0) := by
  have hscale : 0 < den * 2 ^ roundShift f num den := Nat.mul_pos hden (Nat.two_pow_pos _)
  have hvalue := magUnits_roundMagUncut f (num := num) hden
  have hresult : magUnits f (roundMagUncut f num den) * den =
      roundQuotient num (den * 2 ^ roundShift f num den) * (den * 2 ^ roundShift f num den) := by
    rw [hvalue]
    ring
  obtain ⟨e, q, rfl, hq, hnormal⟩ := exists_exponent f k
  have hcandidate := magUnits_eq_mul f hq.le hnormal
  obtain he | he := Nat.lt_or_ge e (roundShift f num den)
  case inl =>
    obtain ⟨hnearest, -⟩ := roundQuotient_nearest hscale num (2 ^ f.fracBits)
    have hfar := gap_lt_of_small_exponent f hden hq he
    rw [hresult, hcandidate]
    exact ⟨by omega, fun _ heq => by omega⟩
  case inr =>
    have hmultiple : magUnits f (e * 2 ^ f.fracBits + q) = q * 2 ^ (e - roundShift f num den) * 2 ^ roundShift f num den := by
      rw [hcandidate, Nat.mul_assoc, ← pow_add, Nat.sub_add_cancel he]
    have hscaled : magUnits f (e * 2 ^ f.fracBits + q) * den =
        q * 2 ^ (e - roundShift f num den) * (den * 2 ^ roundShift f num den) := by
      rw [hmultiple]
      ring
    obtain ⟨hnearest, htie⟩ := roundQuotient_nearest hscale num (q * 2 ^ (e - roundShift f num den))
    rw [hresult, hscaled]
    refine ⟨hnearest, fun hne heq => ?_⟩
    have heven : roundQuotient num (den * 2 ^ roundShift f num den) % 2 = 0 := by
      refine htie (fun hsame => hne ((magUnits_strictMono f).injective ?_)) heq
      rw [hmultiple, hsame, hvalue]
    obtain ⟨p, hp⟩ := Nat.exists_eq_add_of_le' hfrac
    rw [roundMagUncut, hp, pow_succ, ← Nat.mul_assoc]
    omega

/-- Up to the value after the largest finite one nothing is cut off. -/
theorem roundMag_eq_uncut (hfrac : 1 ≤ f.fracBits) (hden : 0 < den) (h : num ≤ magUnits f f.infMag * den) :
    roundMag f num den = roundMagUncut f num den := by
  rw [roundMag_eq_min, min_eq_left]
  by_contra hcut
  have hlt := Nat.mul_lt_mul_of_pos_right (magUnits_strictMono f (not_le.mp hcut)) hden
  obtain ⟨hnearest, -⟩ := roundMagUncut_nearest f (num := num) hfrac hden f.infMag
  unfold gap at hnearest
  omega

theorem roundMag_eq_infMag (hfrac : 1 ≤ f.fracBits) (hden : 0 < den) (h : magUnits f f.infMag * den ≤ num) :
    roundMag f num den = f.infMag := by
  rw [roundMag_eq_min, min_eq_right]
  by_contra hshort
  have hlt := Nat.mul_lt_mul_of_pos_right (magUnits_strictMono f (not_le.mp hshort)) hden
  obtain ⟨hnearest, -⟩ := roundMagUncut_nearest f (num := num) hfrac hden f.infMag
  unfold gap at hnearest
  omega

end RoundMag

/-! ## Bounds on a rounded result -/

section RoundMagBounds

variable (f : FloatFormat) {num den : Nat}

theorem roundMag_nearest (hfrac : 1 ≤ f.fracBits) (hden : 0 < den) (h : num ≤ magUnits f f.infMag * den) (k : Nat) :
    gap (magUnits f (roundMag f num den) * den) num ≤ gap (magUnits f k * den) num := by
  rw [roundMag_eq_uncut f hfrac hden h]
  exact (roundMagUncut_nearest f hfrac hden k).1

theorem roundMag_le (hfrac : 1 ≤ f.fracBits) (hden : 0 < den) {k : Nat} (hk : k ≤ f.infMag)
    (h : num ≤ magUnits f k * den) : roundMag f num den ≤ k := by
  by_contra hgt
  have hlt := Nat.mul_lt_mul_of_pos_right (magUnits_strictMono f (not_le.mp hgt)) hden
  have hmono := Nat.mul_le_mul_right den ((magUnits_strictMono f).monotone hk)
  have hnearest := roundMag_nearest f hfrac hden (h.trans hmono) k
  unfold gap at hnearest
  omega

theorem le_roundMag (hfrac : 1 ≤ f.fracBits) (hden : 0 < den) {k : Nat} (hk : k ≤ f.infMag)
    (h : magUnits f k * den ≤ num) : k ≤ roundMag f num den := by
  obtain hinf | hfin := Nat.le_total (magUnits f f.infMag * den) num
  case inl => rwa [roundMag_eq_infMag f hfrac hden hinf]
  case inr =>
    by_contra hlt
    have hless := Nat.mul_lt_mul_of_pos_right (magUnits_strictMono f (not_le.mp hlt)) hden
    have hnearest := roundMag_nearest f hfrac hden hfin k
    unfold gap at hnearest
    omega

/-- What a magnitude stands for is not rounded. -/
theorem roundMag_of_exact (hfrac : 1 ≤ f.fracBits) (hden : 0 < den) {k : Nat} (hk : k ≤ f.infMag)
    (h : num = magUnits f k * den) : roundMag f num den = k :=
  le_antisymm (roundMag_le f hfrac hden hk h.le) (le_roundMag f hfrac hden hk h.ge)

end RoundMagBounds

/-- Settles O58: the uncut result is nearest among all magnitudes, and the cut changes it only where it is the infinity
anyway. -/
theorem roundingIsToNearestEven : Obligations.RoundingIsToNearestEven := by
  intro f hf num den hden
  have hfrac : 1 ≤ f.fracBits := by
    obtain rfl | rfl := hf
    all_goals decide
  refine ⟨min_le_right _ _, fun h k _ => ?_, roundMag_eq_infMag f hfrac hden⟩
  rw [roundMag_eq_uncut f hfrac hden h]
  exact roundMagUncut_nearest f hfrac hden k

/-! ## The square root (R93) -/

section SquareRoot

/-- The digits found so far stay at or below the root, and within the weight of the digits still to come of it. -/
theorem isqrtFrom_spec (n b : Nat) : ∀ r, r * r ≤ n → n < (r + 2 ^ b) * (r + 2 ^ b) →
    isqrtFrom n b r * isqrtFrom n b r ≤ n ∧ n < (isqrtFrom n b r + 1) * (isqrtFrom n b r + 1) := by
  induction b with
  | zero => exact fun r hle hlt => ⟨hle, hlt⟩
  | succ b ih =>
    intro r hle hlt
    rw [isqrtFrom]
    split
    case isTrue hbit =>
      refine ih _ hbit ?_
      rwa [Nat.add_assoc, ← Nat.two_mul, ← pow_succ']
    case isFalse hbit => exact ih r hle (not_le.mp hbit)

theorem isqrt_spec (n : Nat) : isqrt n * isqrt n ≤ n ∧ n < (isqrt n + 1) * (isqrt n + 1) := by
  refine isqrtFrom_spec n _ 0 (Nat.zero_le _) ?_
  rw [Nat.zero_add, ← pow_add]
  exact Nat.lt_log2_self.trans_le (Nat.pow_le_pow_right (by decide) (by omega))

/-- From 2^53 up a magnitude's units are even: the exponent is not the least one. -/
theorem magUnits_binary64_even {k : Nat} (h : 2 ^ 53 ≤ k) : magUnits binary64 k % 2 = 0 := by
  obtain ⟨e, q, rfl, hq, hnormal⟩ := exists_exponent binary64 k
  have hexponent : e ≠ 0 := by
    rintro rfl
    rw [Nat.zero_mul, Nat.zero_add] at h
    exact absurd hq (not_lt.mpr h)
  obtain ⟨e, rfl⟩ := Nat.exists_eq_succ_of_ne_zero hexponent
  rw [magUnits_eq_mul binary64 hq.le hnormal, Nat.succ_eq_add_one, pow_succ, ← Nat.mul_assoc, Nat.mul_mod_left]

/-- The stand-in for the root of `n`, in half units: the root itself, or half a unit above its integer part (log 14). -/
def rootHalves (n : Nat) : Nat := 2 * isqrt n + (if isqrt n * isqrt n = n then 0 else 1)

/-- An even number is on the same side of twice the root as of the stand-in. -/
theorem sq_le_of_le_rootHalves {n a : Nat} (heven : a % 2 = 0) (h : a ≤ rootHalves n) : a ^ 2 ≤ 4 * n := by
  obtain ⟨hroot, -⟩ := isqrt_spec n
  have hle : a ≤ 2 * isqrt n := by
    unfold rootHalves at h
    split at h <;> omega
  calc a ^ 2 ≤ (2 * isqrt n) ^ 2 := Nat.pow_le_pow_left hle 2
    _ = 4 * (isqrt n * isqrt n) := by ring
    _ ≤ 4 * n := Nat.mul_le_mul_left 4 hroot

theorem le_sq_of_rootHalves_le {n a : Nat} (heven : a % 2 = 0) (h : rootHalves n ≤ a) : 4 * n ≤ a ^ 2 := by
  obtain ⟨-, hroot⟩ := isqrt_spec n
  unfold rootHalves at h
  split at h
  case isTrue hexact =>
    calc 4 * n = (2 * isqrt n) ^ 2 := by rw [mul_pow, pow_two (isqrt n), hexact]; norm_num
      _ ≤ a ^ 2 := Nat.pow_le_pow_left (by omega) 2
  case isFalse =>
    calc 4 * n ≤ 4 * ((isqrt n + 1) * (isqrt n + 1)) := Nat.mul_le_mul_left 4 hroot.le
      _ = (2 * (isqrt n + 1)) ^ 2 := by ring
      _ ≤ a ^ 2 := Nat.pow_le_pow_left (by omega) 2

theorem rootHalves_bounds {n p q a b : Nat} (ha : a = p + p) (hb : b = q + q) (hlow : 2 ^ a ≤ n) (hhigh : n < 2 ^ b) :
    2 ^ (p + 1) ≤ rootHalves n ∧ rootHalves n ≤ 2 ^ (q + 1) := by
  subst ha hb
  obtain ⟨hle, hlt⟩ := isqrt_spec n
  rw [pow_add] at hlow hhigh
  have hsmall : 2 ^ p < isqrt n + 1 := Nat.mul_self_lt_mul_self_iff.mp (hlow.trans_lt hlt)
  have hlarge : isqrt n < 2 ^ q := Nat.mul_self_lt_mul_self_iff.mp (hle.trans_lt hhigh)
  rw [pow_succ, pow_succ]
  unfold rootHalves
  split <;> omega

/-- A rounded number of half units lies between the midpoints of the result and its two neighbours. -/
theorem roundMag_midpoints (f : FloatFormat) (hfrac : 1 ≤ f.fracBits) {x r : Nat} (hround : roundMag f x 2 = r)
    (hpos : 0 < r) (hrange : x ≤ magUnits f f.infMag * 2) :
    magUnits f (r - 1) + magUnits f r ≤ x ∧ x ≤ magUnits f r + magUnits f (r + 1) := by
  have hprev := roundMag_nearest f hfrac (by decide) hrange (r - 1)
  have hnext := roundMag_nearest f hfrac (by decide) hrange (r + 1)
  have hmonoPrev := magUnits_strictMono f (Nat.sub_lt hpos Nat.one_pos)
  have hmonoNext := magUnits_lt_succ f r
  rw [hround] at hprev hnext
  unfold gap at hprev hnext
  constructor <;> omega

/-- The stand-in for the root of a finite number's square rounds to a normal number far from both ends of the exponent's
range. -/
theorem roundMag_rootHalves_bounds {n : Nat} (hlow : 2 ^ 1074 ≤ n) (hhigh : n < 2 ^ 3172) :
    2 * 2 ^ 52 + 2 ^ 52 ≤ roundMag binary64 (rootHalves n) 2 ∧
      roundMag binary64 (rootHalves n) 2 ≤ 1600 * 2 ^ 52 + 2 ^ 52 ∧
      rootHalves n ≤ magUnits binary64 binary64.infMag * 2 := by
  obtain ⟨hhalvesLow, hhalvesHigh⟩ :=
    rootHalves_bounds (p := 537) (q := 1586) (by decide) (by decide) hlow hhigh
  have hfrac : 1 ≤ binary64.fracBits := by decide
  have hleast : magUnits binary64 (2 * 2 ^ 52 + 2 ^ 52) = 2 ^ 52 * 2 ^ 2 :=
    magUnits_eq_mul binary64 (e := 2) (q := 2 ^ 52) (by decide) (Or.inr le_rfl)
  have hgreatest : magUnits binary64 (1600 * 2 ^ 52 + 2 ^ 52) = 2 ^ 52 * 2 ^ 1600 :=
    magUnits_eq_mul binary64 (e := 1600) (q := 2 ^ 52) (by decide) (Or.inr le_rfl)
  have hinf : 1600 * 2 ^ 52 + 2 ^ 52 < binary64.infMag := by decide
  have habove : magUnits binary64 (2 * 2 ^ 52 + 2 ^ 52) * 2 ≤ rootHalves n :=
    calc magUnits binary64 (2 * 2 ^ 52 + 2 ^ 52) * 2 = 2 ^ 55 := by rw [hleast]; norm_num
      _ ≤ 2 ^ (537 + 1) := pow_le_pow_right₀ one_le_two (by decide)
      _ ≤ rootHalves n := hhalvesLow
  have hbelow : rootHalves n ≤ magUnits binary64 (1600 * 2 ^ 52 + 2 ^ 52) * 2 := by
    refine hhalvesHigh.trans ?_
    rw [hgreatest, ← pow_add, ← pow_succ]
    exact Nat.pow_le_pow_right Nat.two_pos (by decide)
  exact ⟨le_roundMag binary64 hfrac Nat.two_pos (by decide) habove,
    roundMag_le binary64 hfrac Nat.two_pos hinf.le hbelow,
    hbelow.trans (Nat.mul_le_mul_right 2 ((magUnits_strictMono binary64).monotone hinf.le))⟩

/-- The rounded root lies between the midpoints to its neighbours: the stand-in does, and the midpoints are even numbers of
half units. -/
theorem roundMag_rootHalves {n r : Nat} (hlow : 2 ^ 1074 ≤ n) (hhigh : n < 2 ^ 3172)
    (hround : roundMag binary64 (rootHalves n) 2 = r) :
    0 < r ∧ r < binary64.infMag ∧ (magUnits binary64 (r - 1) + magUnits binary64 r) ^ 2 ≤ 4 * n ∧
      4 * n ≤ (magUnits binary64 r + magUnits binary64 (r + 1)) ^ 2 := by
  obtain ⟨habove, hbelow, hrange⟩ := roundMag_rootHalves_bounds hlow hhigh
  clear hlow hhigh
  rw [hround] at habove hbelow
  have hinf : 1600 * 2 ^ 52 + 2 ^ 52 < binary64.infMag := by decide
  have hpos : 0 < r := by omega
  obtain ⟨hprev, hnext⟩ := roundMag_midpoints binary64 (by decide) hround hpos hrange
  have hevenPrev := magUnits_binary64_even (k := r - 1) (by omega)
  have heven := magUnits_binary64_even (k := r) (by omega)
  have hevenNext := magUnits_binary64_even (k := r + 1) (by omega)
  exact ⟨hpos, hbelow.trans_lt hinf, sq_le_of_le_rootHalves (by omega) hprev, le_sq_of_rootHalves_le (by omega) hnext⟩

end SquareRoot

/-! ## The value of a pattern -/

section FloatValue

variable (f : FloatFormat)

/-- The units of a finite value are fewer than those of the value after the largest finite one. -/
theorem floatValue_eq_fin {n : Nat} {neg : Bool} {m : Nat} (h : floatValue f n = .fin neg m) :
    neg = decide (f.signWeight ≤ n) ∧ n % f.signWeight < f.infMag ∧ m = magUnits f (n % f.signWeight) := by
  unfold floatValue at h
  dsimp only at h
  split at h
  case isTrue => cases h
  case isFalse hle =>
    split at h
    case isTrue => cases h
    case isFalse hne =>
      obtain ⟨rfl, rfl⟩ := FloatValue.fin.inj h
      exact ⟨rfl, by omega, rfl⟩

theorem floatValue_of_lt {n : Nat} (h : n % f.signWeight < f.infMag) :
    floatValue f n = .fin (decide (f.signWeight ≤ n)) (magUnits f (n % f.signWeight)) := by
  rw [floatValue, if_neg (by omega), if_neg (by omega)]

theorem floatValue_of_eq {n : Nat} (h : n % f.signWeight = f.infMag) :
    floatValue f n = .inf (decide (f.signWeight ≤ n)) := by
  rw [floatValue, if_neg (by omega), if_pos h]

theorem magUnits_zero : magUnits f 0 = 0 := by simp [magUnits]

theorem magUnits_eq_zero_iff {k : Nat} : magUnits f k = 0 ↔ k = 0 := by
  rw [← (magUnits_strictMono f).injective.eq_iff (a := k) (b := 0), magUnits_zero]

end FloatValue

theorem mul_two_pow_bounds {m p q r : Nat} (hm : 0 < m) (hlimit : m < 2 ^ q) (hsum : q + p = r) :
    2 ^ p ≤ m * 2 ^ p ∧ m * 2 ^ p < 2 ^ r := by
  subst hsum
  refine ⟨Nat.le_mul_of_pos_left _ hm, ?_⟩
  rw [pow_add]
  exact Nat.mul_lt_mul_of_pos_right hlimit (Nat.two_pow_pos p)

theorem binary64_unitExp : binary64.unitExp = 1074 := by decide

/-- Settles O59: the root is rounded from the stand-in, and no midpoint lies between the two. -/
theorem squareRootIsNearest : Obligations.SquareRootIsNearest := by
  intro free a m hvalue hm
  obtain ⟨-, hfinite, hunits⟩ := floatValue_eq_fin binary64 hvalue
  have hlimit : m < 2 ^ (binary64.fracBits + (2 ^ binary64.expBits - 2)) := by
    rw [hunits, ← magUnits_infMag binary64 (by decide)]
    exact magUnits_strictMono binary64 hfinite
  obtain ⟨hlow, hhigh⟩ := mul_two_pow_bounds hm hlimit (by decide : _ + 1074 = 3172)
  obtain ⟨r, hround⟩ : ∃ r, roundMag binary64 (rootHalves (m * 2 ^ 1074)) 2 = r := ⟨_, rfl⟩
  obtain ⟨hpos, hlt, hprev, hnext⟩ := roundMag_rootHalves hlow hhigh hround
  refine ⟨r, ?_, hpos, hlt, hprev.trans_eq (Nat.mul_assoc ..).symm, (Nat.mul_assoc ..).trans_le hnext⟩
  have hexact : exactSqrt binary64 (.fin false m) = .ratio false (rootHalves (m * 2 ^ 1074)) 2 := by
    rw [exactSqrt, if_neg (by omega), if_neg (by decide), binary64_unitExp]
    rfl
  rw [f64Sqrt, hvalue, hexact, deliver64, hround, pack64]
  simp

/-- Settles O60: a pattern from the weight of the sign up is negative or a NaN, and below it the magnitude decides. -/
theorem positivityTestIsExact : Obligations.PositivityTestIsExact := by
  intro a
  have hweight : binary64.signWeight = 2 ^ 63 := by decide
  have hinf : binary64.infMag = 0x7FF0000000000000 := by decide
  have hlt := a.isLt
  rw [f64IsPositive, value64]
  obtain hpos | hneg := Nat.lt_or_ge a.toNat (2 ^ 63)
  case inr =>
    refine iff_of_false ?_ (by omega)
    have hsign : decide (binary64.signWeight ≤ a.toNat) = true := by simpa [hweight] using hneg
    rw [floatValue, hsign]
    split
    · simp [FloatValue.isPositive]
    · split <;> simp [FloatValue.isPositive]
  case inl =>
    have hmag : a.toNat % binary64.signWeight = a.toNat := by rw [hweight]; exact Nat.mod_eq_of_lt hpos
    have hsign : decide (binary64.signWeight ≤ a.toNat) = false := by simpa [hweight] using hpos
    obtain hfin | heq | hnan := Nat.lt_trichotomy a.toNat binary64.infMag
    · rw [floatValue_of_lt binary64 (by rwa [hmag]), hsign, hmag]
      simp only [FloatValue.isPositive, decide_eq_true_eq, ne_eq, magUnits_eq_zero_iff]
      omega
    · rw [floatValue_of_eq binary64 (by rwa [hmag]), hsign]
      simp only [FloatValue.isPositive, Bool.not_false, true_iff]
      omega
    · rw [(floatValue_eq_nan_iff binary64 a.toNat).mpr (by rwa [hmag])]
      simp only [FloatValue.isPositive, Bool.false_eq_true, false_iff]
      omega

end Machine
end Sys2Proof
end

section
/-! The values of binary32 patterns, one rounded product or quotient of them (R85, R89), the gains 0, 1 and 2
(45_volume_gain.md R152) and the sample codec (41_sample_codec.md R100 to R104). -/

namespace Sys2Proof
namespace Machine

/-! ## Patterns and their values -/

theorem binary32_unitExp : binary32.unitExp = 149 := by decide

theorem binary32_signWeight : binary32.signWeight = 2 ^ 31 := by decide

theorem binary32_infMag : binary32.infMag = 0x7F800000 := by decide

theorem magUnits_binary32_infMag : magUnits binary32 binary32.infMag = 2 ^ 277 := magUnits_infMag binary32 (by decide)

theorem toNat_pack32 (neg : Bool) {k : Nat} (hk : k ≤ binary32.infMag) :
    (pack32 neg k).toNat = (if neg then binary32.signWeight else 0) + k := by
  rw [binary32_infMag] at hk
  rw [pack32, BitVec.toNat_ofNat, binary32_signWeight]
  refine Nat.mod_eq_of_lt ?_
  split <;> omega

theorem magnitude_pack32 (neg : Bool) {k : Nat} (hk : k ≤ binary32.infMag) :
    (pack32 neg k).toNat % binary32.signWeight = k ∧ decide (binary32.signWeight ≤ (pack32 neg k).toNat) = neg := by
  rw [toNat_pack32 neg hk, binary32_signWeight]
  rw [binary32_infMag] at hk
  cases neg with
  | false => exact ⟨by simp; omega, by simp; omega⟩
  | true => exact ⟨by simp; omega, by simp⟩

theorem value32_pack32 (neg : Bool) {k : Nat} (hk : k < binary32.infMag) :
    value32 (pack32 neg k) = .fin neg (magUnits binary32 k) := by
  obtain ⟨hmag, hsign⟩ := magnitude_pack32 neg hk.le
  rw [value32, floatValue_of_lt binary32 (by rwa [hmag]), hmag, hsign]

theorem value32_pack32_infMag (neg : Bool) : value32 (pack32 neg binary32.infMag) = .inf neg := by
  obtain ⟨hmag, hsign⟩ := magnitude_pack32 neg le_rfl
  rw [value32, floatValue_of_eq binary32 hmag, hsign]

/-- A pattern is put together again from its sign and its magnitude. -/
theorem eq_pack32 (x : F32) :
    x = pack32 (decide (binary32.signWeight ≤ x.toNat)) (x.toNat % binary32.signWeight) := by
  have hlt := x.isLt
  rw [pack32, binary32_signWeight]
  refine BitVec.eq_of_toNat_eq ?_
  rw [BitVec.toNat_ofNat]
  by_cases hsign : 2 ^ 31 ≤ x.toNat
  case pos => simp only [hsign, decide_true, if_true]; omega
  case neg => simp only [hsign, decide_false, Bool.false_eq_true, if_false]; omega

theorem eq_pack32_of_fin {x : F32} {neg : Bool} {m : Nat} (h : value32 x = .fin neg m) :
    ∃ k, k < binary32.infMag ∧ x = pack32 neg k ∧ m = magUnits binary32 k := by
  obtain ⟨rfl, hlt, rfl⟩ := floatValue_eq_fin binary32 h
  exact ⟨_, hlt, eq_pack32 x, rfl⟩

theorem eq_pack32_of_inf {x : F32} {neg : Bool} (h : value32 x = .inf neg) : x = pack32 neg binary32.infMag := by
  unfold value32 floatValue at h
  dsimp only at h
  split at h
  case isTrue => cases h
  case isFalse =>
    split at h
    case isTrue hmag =>
      obtain rfl := FloatValue.inf.inj h
      rw [← hmag]
      exact eq_pack32 x
    case isFalse => cases h

/-! ## The numbers of units that binary32 holds -/

/-- `v` units are the magnitude of a finite binary32 number. -/
def IsF32Units (v : Nat) : Prop := ∃ k, k < binary32.infMag ∧ magUnits binary32 k = v

theorem isF32Units_of_value32 {x : F32} {neg : Bool} {m : Nat} (h : value32 x = .fin neg m) : IsF32Units m := by
  obtain ⟨k, hk, -, rfl⟩ := eq_pack32_of_fin h
  exact ⟨k, hk, rfl⟩

theorem isF32Units_of_lt {k : Nat} (h : magUnits binary32 k < 2 ^ 277) : IsF32Units (magUnits binary32 k) := by
  rw [← magUnits_binary32_infMag] at h
  exact ⟨k, (magUnits_strictMono binary32).lt_iff_lt.mp h, rfl⟩

/-- Up to 2^24 of any weight fit, below 2^128: shifted up until the hidden bit is set or the weight is one unit. -/
theorem isF32Units_mul_two_pow {c e : Nat} (hc : c ≤ 2 ^ 24) (hlt : c * 2 ^ e < 2 ^ 277) : IsF32Units (c * 2 ^ e) := by
  induction e generalizing c with
  | zero =>
    have hvalue : magUnits binary32 (0 * 2 ^ 23 + c) = c * 2 ^ 0 := magUnits_eq_mul binary32 hc (Or.inl rfl)
    rw [← hvalue] at hlt ⊢
    exact isF32Units_of_lt hlt
  | succ e ih =>
    by_cases hbit : 2 ^ 23 ≤ c
    case pos =>
      have hvalue : magUnits binary32 ((e + 1) * 2 ^ 23 + c) = c * 2 ^ (e + 1) := magUnits_eq_mul binary32 hc (Or.inr hbit)
      rw [← hvalue] at hlt ⊢
      exact isF32Units_of_lt hlt
    case neg =>
      have hshift : c * 2 ^ (e + 1) = 2 * c * 2 ^ e := by ring
      rw [hshift] at hlt ⊢
      exact ih (by omega) hlt

theorem isF32Units_exponent {v : Nat} (h : IsF32Units v) : ∃ q e, q < 2 ^ 24 ∧ v = q * 2 ^ e := by
  obtain ⟨k, -, rfl⟩ := h
  obtain ⟨e, q, rfl, hq, hnormal⟩ := exists_exponent binary32 k
  exact ⟨q, e, hq, magUnits_eq_mul binary32 hq.le hnormal⟩

theorem isF32Units_scale {v : Nat} (h : IsF32Units v) (j : Nat) (hlt : v * 2 ^ j < 2 ^ 277) : IsF32Units (v * 2 ^ j) := by
  obtain ⟨q, e, hq, rfl⟩ := isF32Units_exponent h
  rw [Nat.mul_assoc, ← pow_add] at hlt ⊢
  exact isF32Units_mul_two_pow hq.le hlt

/-- Just below a number of more than 23 bits of the weight 2^e there is none nearer than that weight. -/
theorem isF32Units_add_le {v s e : Nat} (h : IsF32Units v) (hs : 2 ^ 23 < s) (hlt : v < s * 2 ^ e) :
    v + 2 ^ e ≤ s * 2 ^ e := by
  obtain ⟨q, d, hq, rfl⟩ := isF32Units_exponent h
  obtain ⟨r, rfl⟩ := Nat.exists_eq_succ_of_ne_zero (Nat.ne_zero_of_lt hs)
  rw [Nat.succ_mul]
  refine Nat.add_le_add_right ?_ _
  obtain hde | hed := Nat.lt_or_ge d e
  case inl =>
    calc q * 2 ^ d ≤ 2 ^ 23 * 2 ^ (d + 1) := by rw [pow_succ 2 d]; nlinarith [Nat.two_pow_pos d]
      _ ≤ r * 2 ^ e := Nat.mul_le_mul (by omega) (Nat.pow_le_pow_right (by decide) hde)
  case inr =>
    obtain ⟨i, rfl⟩ := Nat.exists_eq_add_of_le' hed
    rw [pow_add, ← Nat.mul_assoc] at hlt ⊢
    exact Nat.mul_le_mul_right _ (Nat.le_of_lt_succ (Nat.lt_of_mul_lt_mul_right hlt))

/-! ## One rounded result -/

section Delivered

variable {num den : Nat}

theorem one_le_fracBits_binary32 : 1 ≤ binary32.fracBits := by decide

/-- A number of units that binary32 holds is delivered as it is. -/
theorem value32_deliver32_exact (free : BitVec 64) (neg : Bool) {v : Nat} (hv : IsF32Units v) (hden : 0 < den)
    (h : num = v * den) : value32 (deliver32 free (.ratio neg num den)) = .fin neg v := by
  obtain ⟨k, hk, rfl⟩ := hv
  rw [deliver32, roundMag_of_exact binary32 one_le_fracBits_binary32 hden hk.le h, value32_pack32 neg hk]

/-- From a finite number on the delivered result is that number, a greater one or the infinity. -/
theorem value32_deliver32_of_le (free : BitVec 64) (neg : Bool) {lo : Nat} (hlo : IsF32Units lo) (hden : 0 < den)
    (h : lo * den ≤ num) :
    value32 (deliver32 free (.ratio neg num den)) = .inf neg ∨
      ∃ p, lo ≤ p ∧ value32 (deliver32 free (.ratio neg num den)) = .fin neg p := by
  obtain ⟨k, hk, rfl⟩ := hlo
  have hle := le_roundMag binary32 one_le_fracBits_binary32 hden hk.le h
  rw [deliver32]
  have hcut : roundMag binary32 num den ≤ binary32.infMag := min_le_right _ _
  obtain hlt | hinf := hcut.lt_or_eq
  case inl => exact Or.inr ⟨_, (magUnits_strictMono binary32).monotone hle, value32_pack32 neg hlt⟩
  case inr =>
    rw [hinf]
    exact Or.inl (value32_pack32_infMag neg)

/-- `p` units, a finite number, are nearest to `num / den` units. -/
def NearestF32 (num den p : Nat) : Prop := IsF32Units p ∧ ∀ v, IsF32Units v → gap (p * den) num ≤ gap (v * den) num

/-- Between two finite numbers the delivered result is the nearest finite number, and stays between them. -/
theorem value32_deliver32_between (free : BitVec 64) (neg : Bool) {lo hi : Nat} (hlo : IsF32Units lo) (hhi : IsF32Units hi)
    (hden : 0 < den) (hle : lo * den ≤ num) (hge : num ≤ hi * den) :
    ∃ p, value32 (deliver32 free (.ratio neg num den)) = .fin neg p ∧ lo ≤ p ∧ p ≤ hi ∧ NearestF32 num den p := by
  obtain ⟨k, hk, rfl⟩ := hlo
  obtain ⟨l, hl, rfl⟩ := hhi
  have hmono := (magUnits_strictMono binary32).monotone
  have hlower := le_roundMag binary32 one_le_fracBits_binary32 hden hk.le hle
  have hupper := roundMag_le binary32 one_le_fracBits_binary32 hden hl.le hge
  have hrange := hge.trans (Nat.mul_le_mul_right den (hmono hl.le))
  refine ⟨_, value32_pack32 neg (hupper.trans_lt hl), hmono hlower, hmono hupper, ⟨_, hupper.trans_lt hl, rfl⟩, ?_⟩
  rintro v ⟨j, -, rfl⟩
  exact roundMag_nearest binary32 one_le_fracBits_binary32 hden hrange j

theorem gap_mul_right (a b c : Nat) : gap (a * c) (b * c) = gap a b * c := by
  unfold gap
  rw [Nat.add_mul, Nat.sub_mul, Nat.sub_mul]

/-- A common factor of the two sides of a quotient does not change what is nearest. -/
theorem nearestF32_of_mul {p c : Nat} (hc : 0 < c) (h : NearestF32 (num * c) (den * c) p) : NearestF32 num den p := by
  obtain ⟨hp, hnearest⟩ := h
  refine ⟨hp, fun v hv => ?_⟩
  have hscaled := hnearest v hv
  rw [← Nat.mul_assoc, ← Nat.mul_assoc, gap_mul_right, gap_mul_right] at hscaled
  exact Nat.le_of_mul_le_mul_right hscaled hc

end Delivered

/-! ## Products with a positive constant -/

section Product

variable {x c : F32} {neg : Bool} {m n : Nat}

theorem f32Mul_of_fin (free : BitVec 64) (hx : value32 x = .fin neg m) (hc : value32 c = .fin false n) :
    f32Mul free x c = deliver32 free (.ratio neg (m * n) (2 ^ 149)) := by
  rw [f32Mul, hx, hc, exactMul, binary32_unitExp, Bool.bne_false]

theorem f32Mul_of_inf (free : BitVec 64) (hx : value32 x = .inf neg) (hc : value32 c = .fin false n) (hn : n ≠ 0) :
    f32Mul free x c = pack32 neg binary32.infMag := by
  rw [f32Mul, hx, hc, exactMul, if_neg hn, Bool.bne_false, deliver32]

theorem isNaN32_f32Mul (free : BitVec 64) (hx : isNaN32 x = true) (c : F32) : isNaN32 (f32Mul free x c) = true := by
  rw [isNaN32_iff] at hx
  rw [f32Mul, hx, exactMul_nan_left, deliver32_nan, isNaN32_quietNaN32]

end Product

/-! ## The gains 1, 0 and 2 -/

theorem value32_gainOne : value32 0x3F800000#32 = .fin false (2 ^ 149) := by decide +kernel
theorem value32_gainZero : value32 0x00000000#32 = .fin false 0 := by decide +kernel
theorem value32_gainTwo : value32 0x40000000#32 = .fin false (2 ^ 150) := by decide +kernel

/-- A number times 1.0 is rounded from itself. -/
theorem f32Mul_one (free : BitVec 64) {x : F32} (h : isNaN32 x = false) : f32Mul free x 0x3F800000#32 = x := by
  cases hx : value32 x with
  | nan => rw [(isNaN32_iff x).mpr hx] at h; cases h
  | inf neg =>
    rw [f32Mul_of_inf free hx value32_gainOne (by decide)]
    exact (eq_pack32_of_inf hx).symm
  | fin neg m =>
    rw [f32Mul_of_fin free hx value32_gainOne]
    obtain ⟨k, hk, rfl, rfl⟩ := eq_pack32_of_fin hx
    rw [deliver32, roundMag_of_exact binary32 one_le_fracBits_binary32 (Nat.two_pow_pos _) hk.le rfl]

theorem f32Mul_zero (free : BitVec 64) {x : F32} {neg : Bool} {m : Nat} (hx : value32 x = .fin neg m) :
    f32Mul free x 0x00000000#32 = if neg then 0x80000000#32 else 0x00000000#32 := by
  have hround : roundMag binary32 (m * 0) (2 ^ 149) = 0 :=
    roundMag_of_exact binary32 one_le_fracBits_binary32 (Nat.two_pow_pos _) (Nat.zero_le _)
      (by rw [magUnits_zero, Nat.zero_mul, Nat.mul_zero])
  rw [f32Mul_of_fin free hx value32_gainZero, deliver32, hround]
  cases neg with
  | false => rfl
  | true => rfl

/-- Settles O35: doubling adds one to the weight of the last place, which fits below 2^128. -/
theorem volumeGainsOneZeroTwo : Obligations.VolumeGainsOneZeroTwo := by
  intro free x
  refine ⟨f32Mul_one free, fun neg m => f32Mul_zero free, fun neg m hx hm => ?_, fun neg m hx hm => ?_,
    fun h gain => isNaN32_f32Mul free h gain⟩
  · rw [f32Mul_of_fin free hx value32_gainTwo, Nat.mul_comm 2 m]
    refine value32_deliver32_exact free neg (isF32Units_scale (isF32Units_of_value32 hx) 1 ?_) (Nat.two_pow_pos _) ?_
    · omega
    · omega
  · have hinf := magUnits_binary32_infMag.trans (pow_succ 2 276)
    have hscale : ∀ top half : Nat, top = half * 2 → half ≤ m → top * 2 ^ 149 ≤ m * 2 ^ 150 := by omega
    have hlarge := hscale _ _ hinf hm
    rw [f32Mul_of_fin free hx value32_gainTwo, deliver32, roundMag_eq_infMag binary32 one_le_fracBits_binary32
      (Nat.two_pow_pos _) hlarge, value32_pack32_infMag]

end Machine
end Sys2Proof
end

section
/-! The sample codec: decode1 and encode1 on every value (41_sample_codec.md R100 to R104). -/

namespace Sys2Proof
namespace Machine

theorem value32_const32767 : value32 f32Const32767 = .fin false (32767 * 2 ^ 149) := by decide +kernel
theorem value32_const32768 : value32 f32Const32768 = .fin false (2 ^ 164) := by decide +kernel

/-! ## decode1 (R100) -/

theorem natAbs_toInt_le (x : Pcm16) : x.toInt.natAbs ≤ 2 ^ 15 := by
  have hlow := BitVec.le_toInt x
  have hhigh := BitVec.toInt_lt (x := x)
  omega

/-- The integer is a binary32 number. -/
theorem value32_f32OfI16 (x : Pcm16) : value32 (f32OfI16 x) = .fin (decide (x.toInt < 0)) (x.toInt.natAbs * 2 ^ 149) := by
  have hle := natAbs_toInt_le x
  have hunits : IsF32Units (x.toInt.natAbs * 2 ^ 149) := isF32Units_mul_two_pow (by omega) (by omega)
  rw [f32OfI16, BitVec.msb_eq_toInt, binary32_unitExp]
  exact value32_deliver32_exact 0#64 _ hunits Nat.one_pos (Nat.mul_one _).symm

/-- Below zero the quotient by 32768.0 is exact. -/
theorem value32_decode1_neg {x : Pcm16} (h : x.toInt < 0) : value32 (decode1 x) = .fin true (x.toInt.natAbs * 2 ^ 134) := by
  have hle := natAbs_toInt_le x
  have hunits : IsF32Units (x.toInt.natAbs * 2 ^ 134) := isF32Units_mul_two_pow (by omega) (by omega)
  rw [decode1, if_pos h, f32Div, value32_f32OfI16, value32_const32768, exactDiv, if_neg (by decide), binary32_unitExp,
    decide_eq_true h, Bool.bne_false]
  exact value32_deliver32_exact 0#64 true hunits (Nat.two_pow_pos _) (by ring)

/-- From zero on the quotient by 32767.0 is rounded, between any two finite numbers that the exact quotient is between. -/
theorem value32_decode1_nonneg {x : Pcm16} (h : 0 ≤ x.toInt) {lo hi : Nat} (hlo : IsF32Units lo) (hhi : IsF32Units hi)
    (hle : lo * 32767 ≤ x.toInt.natAbs * 2 ^ 149) (hge : x.toInt.natAbs * 2 ^ 149 ≤ hi * 32767) :
    ∃ p, value32 (decode1 x) = .fin false p ∧ lo ≤ p ∧ p ≤ hi ∧ NearestF32 (x.toInt.natAbs * 2 ^ 149) 32767 p := by
  rw [decode1, if_neg (not_lt.mpr h), f32Div, value32_f32OfI16, value32_const32767, exactDiv, if_neg (by decide),
    binary32_unitExp, decide_eq_false (not_lt.mpr h), Bool.bne_false]
  obtain ⟨p, hvalue, hlop, hphi, hnearest⟩ :=
    value32_deliver32_between 0#64 false (num := x.toInt.natAbs * 2 ^ 149 * 2 ^ 149) hlo hhi (by decide : 0 < 32767 * 2 ^ 149)
      ((Nat.mul_assoc ..).symm.trans_le (Nat.mul_le_mul_right _ hle)) ((Nat.mul_le_mul_right _ hge).trans_eq (Nat.mul_assoc ..))
  exact ⟨p, hvalue, hlop, hphi, nearestF32_of_mul (Nat.two_pow_pos 149) hnearest⟩

theorem isF32Units_zero : IsF32Units 0 := ⟨0, by decide, magUnits_zero _⟩

theorem isF32Units_two_pow {e : Nat} (h : e < 277) : IsF32Units (2 ^ e) := by
  rw [← Nat.one_mul (2 ^ e)]
  refine isF32Units_mul_two_pow (by decide) ?_
  rw [Nat.one_mul]
  exact Nat.pow_lt_pow_right (by decide) h

/-- Settles O25: negative quotients are exact, and the others lie between the least normal number, or 0, and 1.0. -/
theorem decodedSampleIsInRange : Obligations.DecodedSampleIsInRange := by
  refine ⟨by decide +kernel, by decide +kernel, by decide +kernel, fun x => ⟨rfl, ?_⟩⟩
  have habs := natAbs_toInt_le x
  have hzero : x ≠ 0#16 → x.toInt.natAbs ≠ 0 := fun hne h0 =>
    hne (BitVec.eq_of_toInt_eq ((Int.natAbs_eq_zero.mp h0).trans (BitVec.toInt_zero).symm))
  obtain hneg | hnonneg := lt_or_ge x.toInt 0
  case inl =>
    refine ⟨_, by rw [value32_decode1_neg hneg, decide_eq_true hneg], by omega, fun hne => ?_, fun _ => rfl⟩
    have hpos := hzero hne
    omega
  case inr =>
    have hhigh := BitVec.toInt_lt (x := x)
    obtain ⟨lo, hlo, hlobound, hnormal⟩ : ∃ lo, IsF32Units lo ∧ lo * 32767 ≤ x.toInt.natAbs * 2 ^ 149 ∧
        (x ≠ 0#16 → 2 ^ 23 ≤ lo) := by
      by_cases hx : x = 0#16
      case pos => exact ⟨0, isF32Units_zero, (Nat.zero_mul _).trans_le (Nat.zero_le _), fun hne => absurd hx hne⟩
      case neg =>
        have hpos := hzero hx
        exact ⟨2 ^ 23, isF32Units_two_pow (by decide), by omega, fun _ => le_rfl⟩
    obtain ⟨p, hvalue, hle, hge, -⟩ :=
      value32_decode1_nonneg hnonneg hlo (isF32Units_two_pow (e := 149) (by decide)) hlobound
        (by rw [Nat.mul_comm]; exact Nat.mul_le_mul_left _ (by omega))
    refine ⟨p, by rw [hvalue, decide_eq_false (not_lt.mpr hnonneg)], hge, fun hne => (hnormal hne).trans hle, fun hneg => ?_⟩
    exact absurd hneg (not_lt.mpr hnonneg)

/-! ## encode1 (R102) -/

theorem toInt_ofNat_of_lt {n : Nat} (h : n < 32768) : (BitVec.ofNat 16 n).toInt = n := by
  have hmod : n % 2 ^ 16 = n := Nat.mod_eq_of_lt (by omega)
  rw [BitVec.toInt_eq_toNat_of_lt (by rw [BitVec.toNat_ofNat]; omega), BitVec.toNat_ofNat, hmod]

theorem toInt_sat16Trunc_fin_false (m : Nat) : (sat16Trunc (.fin false m)).toInt = (min 32767 (m / 2 ^ 149) : Nat) := by
  rw [sat16Trunc, binary32_unitExp]
  split
  case isTrue h => rw [min_eq_left h]; rfl
  case isFalse h => rw [min_eq_right (by omega), toInt_ofNat_of_lt (by omega)]

theorem toInt_sat16Trunc_fin_true (m : Nat) : (sat16Trunc (.fin true m)).toInt = -(min 32768 (m / 2 ^ 149) : Nat) := by
  rw [sat16Trunc, binary32_unitExp]
  split
  case isTrue h => rw [min_eq_left h]; rfl
  case isFalse h =>
    rw [min_eq_right (by omega), BitVec.toInt_neg, toInt_ofNat_of_lt (by omega), Int.bmod_eq_of_le (by omega) (by omega)]

section Encode

variable {x : F32} {m : Nat}

theorem isNaN32_of_fin {neg : Bool} (h : value32 x = .fin neg m) : isNaN32 x = false := by rw [isNaN32, h]; rfl

/-- A positive sample or a zero is multiplied by 32767.0. -/
theorem encode1_of_not_negative {neg : Bool} (h : value32 x = .fin neg m) (hsign : neg = false ∨ m = 0) :
    encode1 x = sat16Trunc (value32 (f32Mul 0#64 x f32Const32767)) := by
  have hnonneg : f32IsNegative x = false := by
    rw [f32IsNegative, h]
    obtain rfl | rfl := hsign
    · rfl
    · cases neg <;> rfl
  simp [encode1, isNaN32_of_fin h, hnonneg]

theorem encode1_of_negative (h : value32 x = .fin true m) (hm : m ≠ 0) :
    encode1 x = sat16Trunc (value32 (f32Mul 0#64 x f32Const32768)) := by
  have hneg : f32IsNegative x = true := by
    rw [f32IsNegative, h]
    exact decide_eq_true hm
  simp [encode1, isNaN32_of_fin h, hneg]

theorem encode1_of_isNaN32 (h : isNaN32 x = true) : encode1 x = 0x0000#16 := by rw [encode1, if_pos h]

theorem encode1_of_inf {neg : Bool} (h : value32 x = .inf neg) : encode1 x = if neg then 0x8000#16 else 0x7FFF#16 := by
  have hnumber : isNaN32 x = false := by rw [isNaN32, h]; rfl
  have hsign : f32IsNegative x = neg := by rw [f32IsNegative, h]; rfl
  rw [encode1, hnumber, hsign, f32Mul_of_inf 0#64 h value32_const32768 (by decide),
    f32Mul_of_inf 0#64 h value32_const32767 (by decide), value32_pack32_infMag]
  cases neg <;> rfl

/-- From 1.0 on the product is at least 32767.0. -/
theorem encode1_of_ge_one (h : value32 x = .fin false m) (hm : 2 ^ 149 ≤ m) : encode1 x = 0x7FFF#16 := by
  have hunits : IsF32Units (32767 * 2 ^ 149) := isF32Units_mul_two_pow (by decide) (by decide)
  rw [encode1_of_not_negative h (Or.inl rfl), f32Mul_of_fin 0#64 h value32_const32767]
  obtain hinf | ⟨p, hp, hvalue⟩ := value32_deliver32_of_le 0#64 false (num := m * (32767 * 2 ^ 149)) hunits
    (Nat.two_pow_pos 149) (by omega)
  case inl => rw [hinf]; rfl
  case inr =>
    rw [hvalue]
    refine BitVec.eq_of_toInt_eq ((toInt_sat16Trunc_fin_false p).trans ?_)
    rw [min_eq_left (by omega)]
    rfl

/-- From -1.0 down the product is at most -32768.0. -/
theorem encode1_of_le_neg_one (h : value32 x = .fin true m) (hm : 2 ^ 149 ≤ m) : encode1 x = 0x8000#16 := by
  have hunits : IsF32Units (2 ^ 164) := isF32Units_two_pow (by decide)
  rw [encode1_of_negative h (by omega), f32Mul_of_fin 0#64 h value32_const32768]
  obtain hinf | ⟨p, hp, hvalue⟩ := value32_deliver32_of_le 0#64 true (num := m * 2 ^ 164) hunits
    (Nat.two_pow_pos 149) (by omega)
  case inl => rw [hinf]; rfl
  case inr =>
    rw [hvalue]
    refine BitVec.eq_of_toInt_eq ((toInt_sat16Trunc_fin_true p).trans ?_)
    rw [min_eq_left (by omega)]
    rfl

/-- Between -1.0 and 0 the product with 32768.0 is exact. -/
theorem toInt_encode1_of_neg (h : value32 x = .fin true m) (hm : m < 2 ^ 149) :
    (encode1 x).toInt = -((m / 2 ^ 134 : Nat) : Int) := by
  by_cases hzero : m = 0
  case pos =>
    subst hzero
    rw [encode1_of_not_negative h (Or.inr rfl), f32Mul_of_fin 0#64 h value32_const32767, Nat.zero_mul,
      value32_deliver32_exact 0#64 true isF32Units_zero (Nat.two_pow_pos _) (Nat.zero_mul _).symm]
    rfl
  case neg =>
    have hunits : IsF32Units (m * 2 ^ 15) := isF32Units_scale (isF32Units_of_value32 h) 15 (by omega)
    rw [encode1_of_negative h hzero, f32Mul_of_fin 0#64 h value32_const32768,
      value32_deliver32_exact 0#64 true hunits (Nat.two_pow_pos _) (by ring), toInt_sat16Trunc_fin_true]
    congr 2
    omega

/-- From 0 to below 1.0 the product with 32767.0 is rounded, within the integers around it, and then truncated. -/
theorem toInt_encode1_of_nonneg (h : value32 x = .fin false m) (hm : m < 2 ^ 149) :
    ∃ p, value32 (f32Mul 0#64 x f32Const32767) = .fin false p ∧ (encode1 x).toInt = (p / 2 ^ 149 : Nat) ∧
      m * 32767 / 2 ^ 149 ≤ p / 2 ^ 149 ∧ p / 2 ^ 149 ≤ m * 32767 / 2 ^ 149 + 1 ∧ NearestF32 (m * 32767) 1 p := by
  have hunits : ∀ n, n ≤ 2 ^ 24 → IsF32Units (n * 2 ^ 149) := fun n hn => isF32Units_mul_two_pow hn (by omega)
  obtain ⟨p, hvalue, hlo, hhi, hnearest⟩ :=
    value32_deliver32_between 0#64 false (num := m * (32767 * 2 ^ 149)) (den := 2 ^ 149)
      (hunits (m * 32767 / 2 ^ 149) (by omega)) (hunits (m * 32767 / 2 ^ 149 + 1) (by omega)) (Nat.two_pow_pos _)
      (by omega) (by omega)
  rw [encode1_of_not_negative h (Or.inl rfl), f32Mul_of_fin 0#64 h value32_const32767, hvalue, toInt_sat16Trunc_fin_false]
  refine ⟨p, rfl, ?_, by omega, by omega, nearestF32_of_mul (Nat.two_pow_pos 149) ?_⟩
  · rw [min_eq_right (by omega)]
  · rwa [Nat.mul_assoc, Nat.one_mul]

end Encode

/-- Settles O27, clause by clause. -/
theorem encodeSaturatesAndTruncates : Obligations.EncodeSaturatesAndTruncates := by
  refine fun x => ⟨encode1_of_isNaN32, fun _ => encode1_of_inf, fun _ => encode1_of_ge_one, fun _ => encode1_of_le_neg_one,
    fun _ => toInt_encode1_of_neg, fun m h hm => ?_⟩
  obtain ⟨p, hvalue, htoInt, hle, hge, -⟩ := toInt_encode1_of_nonneg h hm
  exact ⟨p, hvalue, htoInt, hle, hge⟩

end Machine
end Sys2Proof
end

section
/-! The round trip through the sample codec (41_sample_codec.md R104). -/

namespace Sys2Proof
namespace Machine

/-! ## The error of the quotient -/

theorem two_mul_gap_roundQuotient_le {scale : Nat} (hscale : 0 < scale) (num : Nat) :
    2 * gap (roundQuotient num scale * scale) num ≤ scale := by
  have hmod := Nat.mod_lt num hscale
  have hdiv := Nat.div_add_mod' num scale
  have hsucc : (num / scale + 1) * scale = num / scale * scale + scale := Nat.succ_mul _ _
  unfold gap roundQuotient
  split
  case isTrue =>
    rw [hsucc]
    omega
  case isFalse =>
    rw [Nat.add_zero]
    omega

/-- The integer `n` is written with more than 23 bits of a weight below 1, and a binary32 number times 32767 is within half
that weight of it. -/
def HasCloseQuotient (n : Nat) : Prop :=
  ∃ s e v, 2 ^ 23 < s ∧ e ≤ 149 ∧ n * 2 ^ 149 = s * 2 ^ e ∧ IsF32Units v ∧ 2 * gap (v * 32767) (n * 2 ^ 149) < 2 ^ e

/-- For a power of two the number close enough is the 2^15th part of it times (1 + 2^-15), as 32767 (2^15 + 1) = 2^30 - 1. -/
theorem hasCloseQuotient_two_pow {k : Nat} (hk : k ≤ 14) : HasCloseQuotient (2 ^ k) := by
  have hpos : 0 < 2 ^ k := Nat.two_pow_pos k
  have hle : 2 ^ k ≤ 2 ^ 14 := Nat.pow_le_pow_right (by decide) hk
  have hsplit : ∀ j, 2 ^ (k + j) = 2 ^ k * 2 ^ j := fun j => pow_add 2 k j
  refine ⟨2 ^ 24, k + 125, (2 ^ 15 + 1) * 2 ^ (k + 119), by decide, by omega, ?_, isF32Units_mul_two_pow (by decide) ?_, ?_⟩
  · rw [hsplit]
    omega
  · rw [hsplit]
    omega
  · unfold gap
    rw [hsplit, hsplit]
    omega

/-- For another number the quotient is rounded to the nearest multiple of its last place. -/
theorem hasCloseQuotient_between {n k : Nat} (hlow : 2 ^ k < n) (hhigh : n < 2 ^ (k + 1)) (hn : n < 32767) :
    HasCloseQuotient n := by
  have hk : k ≤ 14 := by
    by_contra hgt
    have hlarge : 2 ^ 15 ≤ 2 ^ k := Nat.pow_le_pow_right (by decide) (by omega)
    omega
  have hle : 2 ^ k ≤ 2 ^ 14 := Nat.pow_le_pow_right (by decide) hk
  have hsplit : ∀ j, 2 ^ (k + j) = 2 ^ k * 2 ^ j := fun j => pow_add 2 k j
  have hcofactor : 2 ^ (23 - k) * 2 ^ k = 2 ^ 23 := by rw [← pow_add, Nat.sub_add_cancel (by omega)]
  have hscale : 0 < 32767 * 2 ^ (k + 111) := Nat.mul_pos (by decide) (Nat.two_pow_pos _)
  have hfew : n * 2 ^ 149 < 2 ^ 24 * (32767 * 2 ^ (k + 111)) := by
    obtain rfl | hlt := hk.eq_or_lt
    case inl => omega
    case inr =>
      have hhalf : 2 ^ k ≤ 2 ^ 13 := Nat.pow_le_pow_right (by decide) (by omega)
      rw [hsplit] at hhigh ⊢
      omega
  have hquotient : n * 2 ^ 149 / (32767 * 2 ^ (k + 111)) < 2 ^ 24 := (Nat.div_lt_iff_lt_mul hscale).mpr hfew
  obtain ⟨-, hround⟩ := roundQuotient_bounds (n * 2 ^ 149) (32767 * 2 ^ (k + 111))
  have herror := two_mul_gap_roundQuotient_le hscale (n * 2 ^ 149)
  refine ⟨n * 2 ^ (23 - k), k + 126, roundQuotient (n * 2 ^ 149) (32767 * 2 ^ (k + 111)) * 2 ^ (k + 111), ?_, by omega, ?_,
    isF32Units_mul_two_pow (hround.trans hquotient) ?_, ?_⟩
  · rw [← hcofactor, Nat.mul_comm]
    exact Nat.mul_lt_mul_of_pos_right hlow (Nat.two_pow_pos _)
  · rw [hsplit, Nat.mul_assoc, ← Nat.mul_assoc (2 ^ (23 - k)), hcofactor, ← pow_add]
  · refine (Nat.mul_le_mul_right _ (hround.trans hquotient)).trans_lt ?_
    rw [hsplit]
    omega
  · rw [Nat.mul_assoc, Nat.mul_comm (2 ^ (k + 111))]
    refine herror.trans_lt ?_
    rw [hsplit, hsplit]
    omega

theorem hasCloseQuotient {n : Nat} (hpos : 0 < n) (hn : n < 32767) : HasCloseQuotient n := by
  have hlow : 2 ^ Nat.log2 n ≤ n := Nat.log2_self_le hpos.ne'
  obtain heq | hlt := hlow.eq_or_lt
  case inl =>
    rw [← heq]
    refine hasCloseQuotient_two_pow (Nat.lt_succ_iff.mp ((Nat.log2_lt hpos.ne').mpr ?_))
    omega
  case inr => exact hasCloseQuotient_between hlt Nat.lt_log2_self hn

/-! ## The product of the quotient -/

/-- A number at least as near to `y` as `x` is, where no number lies in the `weight` below `x` and `y` is within half of it:
it is `x` or less than `weight` above it. -/
theorem between_of_gap_le {x y r weight : Nat} (hclose : 2 * gap y x < weight) (hnear : gap r y ≤ gap x y)
    (hbelow : r < x → r + weight ≤ x) : x ≤ r ∧ r < x + weight := by
  unfold gap at hclose hnear
  omega

/-- The product is rounded to the integer or just above it: the next number below is farther from the product than the
integer is. -/
theorem div_of_nearest {n p r : Nat} (hn : HasCloseQuotient n) (hunits : IsF32Units (n * 2 ^ 149))
    (hp : NearestF32 (n * 2 ^ 149) 32767 p) (hr : NearestF32 (p * 32767) 1 r) : r / 2 ^ 149 = n := by
  obtain ⟨s, e, v, hs, he, hwritten, hv, hclose⟩ := hn
  obtain ⟨-, hquotient⟩ := hp
  obtain ⟨hrUnits, hproduct⟩ := hr
  have hnear := hproduct _ hunits
  rw [Nat.mul_one, Nat.mul_one] at hnear
  have hbelow : r < n * 2 ^ 149 → r + 2 ^ e ≤ n * 2 ^ 149 := by
    rw [hwritten]
    exact isF32Units_add_le hrUnits hs
  obtain ⟨hge, hlt⟩ :=
    between_of_gap_le ((Nat.mul_le_mul_left 2 (hquotient v hv)).trans_lt hclose) hnear hbelow
  have hweight : 2 ^ e ≤ 2 ^ 149 := Nat.pow_le_pow_right (by decide) he
  refine Nat.div_eq_of_lt_le hge (hlt.trans_le ?_)
  rw [Nat.succ_mul]
  exact Nat.add_le_add_left hweight _

/-- Settles O26: below zero both conversions are exact; above it the quotient is close enough for its product to be
rounded to the integer or just above. -/
theorem codecRoundTripIsExact : Obligations.CodecRoundTripIsExact := by
  intro x
  have hlow := BitVec.le_toInt x
  have hhigh := BitVec.toInt_lt (x := x)
  obtain hneg | hnonneg := lt_or_ge x.toInt 0
  case inl =>
    have hvalue := value32_decode1_neg hneg
    obtain hmin | hgt := hlow.eq_or_lt
    case inl =>
      rw [encode1_of_le_neg_one hvalue (by omega)]
      exact BitVec.eq_of_toInt_eq hmin
    case inr =>
      refine BitVec.eq_of_toInt_eq ((toInt_encode1_of_neg hvalue (by omega)).trans ?_)
      rw [Nat.mul_div_cancel _ (Nat.two_pow_pos _)]
      omega
  case inr =>
    obtain hzero | hpos := hnonneg.eq_or_lt
    case inl =>
      obtain rfl : x = 0#16 := BitVec.eq_of_toInt_eq hzero.symm
      decide +kernel
    case inr =>
      by_cases hmax : x.toInt = 32767
      case pos =>
        obtain rfl : x = 0x7FFF#16 := BitVec.eq_of_toInt_eq hmax
        decide +kernel
      case neg =>
        have hbelowOne : IsF32Units ((2 ^ 24 - 1) * 2 ^ 125) := isF32Units_mul_two_pow (by decide) (by decide)
        have hunits : IsF32Units (x.toInt.natAbs * 2 ^ 149) := isF32Units_mul_two_pow (by omega) (by omega)
        obtain ⟨p, hvalue, -, hle, hquotient⟩ :=
          value32_decode1_nonneg hnonneg isF32Units_zero hbelowOne ((Nat.zero_mul _).trans_le (Nat.zero_le _)) (by omega)
        obtain ⟨r, -, htoInt, -, -, hproduct⟩ := toInt_encode1_of_nonneg hvalue (by omega)
        refine BitVec.eq_of_toInt_eq (htoInt.trans ?_)
        rw [div_of_nearest (hasCloseQuotient (by omega) (by omega)) hunits hquotient hproduct]
        omega

end Machine
end Sys2Proof
end
